-- ==== Sys2Proof/Word.lean ====
section
/-!
DEFINITION. The plain units the whole model is written in: a byte of a frame or a cell, and the small
numbered resources of the bridge (00_scope.md, table "Resources").
-/
namespace Sys2Proof

/-- A byte of a trunk frame or of a buffer cell. -/
abbrev Byte := BitVec 8

/-- Lanes are numbered 0 to 7. -/
abbrev LaneId := Fin 8

/-- Transaction slots have the indices 0 to 63. -/
abbrev SlotId := Fin 64

/-- Route entries have the indices 0 to 127. -/
abbrev RouteId := Fin 128

/-- Sources (controllers on the backplane) are numbered 0 to 63. -/
abbrev Source := Fin 64

/-- Counter sets are numbered 0 to 31. -/
abbrev SetId := Fin 32

/-- A counter is 40 bits wide and wraps (R149, R154). -/
abbrev Counter := BitVec 40

end Sys2Proof
end

