-- ==== Sys2Proof/Syntax.lean ====
section
/-!
DEFINITION. The commands of the bridge: one constructor for each row of spec/opcode_table.json.
A command is one event of the part, whole and indivisible (95_what_each_step_holds.md). The table gives its rows no operand
fields; the operands here are what the event brings from outside the block (which lane, the bytes on the trunk line, the level
of an input pin), assumption log 3.
-/
namespace Sys2Proof

/-- Why a frame in reception is abandoned (R110), synchronisation loss apart, which is `Instr.syncLost`. -/
inductive AbandonCause where
  /-- an invalid character arrives -/
  | invalidCharacter
  /-- an abort delimiter arrives -/
  | abortDelimiter
  /-- a second start delimiter arrives, itself the start of a new frame -/
  | secondStart
  deriving DecidableEq, Repr

/-- The commands. A lane event names its lane. A management operation has no operand of its own: it is the taking of the
request at the head of the management queue, whose body carries the operands (R126). -/
inductive Instr where
  /-- POWER_ON (R63): release of the reset line or application of power. -/
  | powerOn
  /-- RESET_LINE_ASSERTED (R90). -/
  | resetLineAsserted
  /-- SYNC_FOUND (R108). -/
  | syncFound
  /-- SYNC_LOST (R109). -/
  | syncLost
  /-- LINK_UP (R108): synchronisation has held for 1 ms. -/
  | linkUp
  /-- LINK_DOWN (R109): synchronisation has been lost for 100 µs. -/
  | linkDown
  /-- FRAME_ABANDONED (R110). -/
  | frameAbandoned (cause : AbandonCause)
  /-- FRAME_TAKEN_WHOLE (R111): the end delimiter; `bytes` are the bytes that arrived since the start delimiter. -/
  | frameTakenWhole (bytes : List Byte)
  /-- REQUEST (R24): Admission takes the REQUEST at the head of the admission list. -/
  | request
  /-- CANCEL (R40): Admission takes the CANCEL at the head of the admission list. -/
  | cancel
  /-- LANE_START_ATTEMPT (R68): `ready` is the level of the lane's ready input sensed at the start. -/
  | laneStartAttempt (lane : LaneId) (ready : Bool)
  /-- READY_ASSERT (R69). -/
  | readyAssert (lane : LaneId)
  /-- READY_TIMER_EXPIRY (R70). -/
  | readyTimerExpiry (lane : LaneId)
  /-- END_OF_LAST_WORD (R76): `din` is the level of the lane's data input in each period of the 100 MHz lane reference,
  counted from the moment the selects were asserted. -/
  | endOfLastWord (lane : LaneId) (din : List Bool)
  /-- GAP_TIMER_EXPIRY (R77). -/
  | gapTimerExpiry (lane : LaneId)
  /-- CLAIM_ASSERT (R78): `din` is the data input's record, as in `endOfLastWord`, up to the moment of the claim. -/
  | claimAssert (lane : LaneId) (din : List Bool)
  /-- CLAIM_RELEASE (R80). -/
  | claimRelease (lane : LaneId)
  /-- REFRESH_TIMER_EXPIRY (R99). -/
  | refreshTimerExpiry
  /-- INBOUND_HOLD_EXPIRY (R103). -/
  | inboundHoldExpiry
  /-- LEASE_EXPIRY (R131). -/
  | leaseExpiry
  /-- REPEAT_TIMER_EXPIRY (R164). -/
  | repeatTimerExpiry
  /-- OUTPUT_GRANT (R118). -/
  | outputGrant
  /-- FRAME_END (R120). -/
  | frameEnd
  /-- LOCK (R129). -/
  | lock
  /-- UNLOCK (R130). -/
  | unlock
  /-- READ_DEVICE (R136). -/
  | readDevice
  /-- SET_DEVICE (R135). -/
  | setDevice
  /-- READ_ROUTE (R137). -/
  | readRoute
  /-- FIND_ROUTE (R137). -/
  | findRoute
  /-- WRITE_ROUTE (R10). -/
  | writeRoute
  /-- OPEN_ROUTE (R14). -/
  | openRoute
  /-- DRAIN_ROUTE (R14). -/
  | drainRoute
  /-- DELETE_ROUTE (R14). -/
  | deleteRoute
  /-- READ_LANE (R140). -/
  | readLane
  /-- SET_LANE (R141). -/
  | setLane
  /-- RESET_LANE (R84). -/
  | resetLane
  /-- READ_TRANSACTIONS (R142). -/
  | readTransactions
  /-- READ_COUNTERS (R156). -/
  | readCounters
  /-- SET_FLOW (R100). -/
  | setFlow
  /-- READ_FLOW (R144). -/
  | readFlow
  /-- SET_EVENTS (R165). -/
  | setEvents
  /-- ACK_EVENTS (R166). -/
  | ackEvents
  /-- DEVICE_RESET (R147). -/
  | deviceReset
  /-- MGMT_BAD_OPERATION (R127): the request taken names no operation. -/
  | mgmtBadOperation
  /-- START_DELIMITER (R110). -/
  | startDelimiter
  deriving DecidableEq, Repr

end Sys2Proof
end

