-- ==== Sys2Proof/Decode.lean ====
section
/-!
DEFINITION. The commands a word spells by the table's bits. No row of spec/opcode_table.json gives its command any bits (every
row's "fields" is empty and there is no "fixed"), so no word spells a command: commands are events of the block, and the bytes
that carry requests from outside are read by the Receiver and the management agent (Machine/Operands.lean).
-/
namespace Sys2Proof

/-- The command that a word spells by the bits of spec/opcode_table.json: none, since no row gives bits. -/
def decodeTableWord (_nbits _w : Nat) : Option Instr := none

end Sys2Proof
end

