-- ==== Sys2Proof/Config.lean ====
section
/-!
DEFINITION. The free values of the model: constants without a body, which no proof can evaluate.
Each is applied to the plain counter `draws` of State, so that every use is a fresh value.
-/
namespace Sys2Proof

/-- Which of the free cells a reservation receives next. R91 leaves the order in which cells are given open
("this reference does not specify the order in which cells are given"); any natural number is possible, and the
model takes it modulo the number of cells that are free (assumption log 1). -/
opaque Config.cellPick : Nat → Nat

/-- The levels of the data input, one for each period of the lane reference from the assertion of the selects up to the moment a
management operation stopped a shifting attempt: neither the moment nor the levels come with the operation (assumption log 2). -/
opaque Config.strayRecord : Nat → List Bool

end Sys2Proof
end

