-- ==== Sys2Proof/Machine/State.lean ====
section
/-!
DEFINITION. The state of the bridge as plain data, block by block (00_scope.md, "Block diagram in words"), and the state after
power-on. Every field carries the rule that names it. Sets of lanes, select lines, sources and conditions are held as bits, bit n
for member n (R171).
-/
namespace Sys2Proof.Machine

/-! ### Route Table -/

/-- The state of a route entry (R14). -/
inductive RouteState where
  | empty
  | closed
  | opened
  | draining
  deriving DecidableEq, Repr

/-- The form of a route's transaction (R73). -/
inductive Shape where
  | write
  | read
  | exchange
  | commandRead
  deriving DecidableEq, Repr

/-- A logic level: of the clock between bit periods (R65), or of an output pin. -/
inductive Level where
  | low
  | high
  deriving DecidableEq, Repr

/-- The clock edge of a bit period on which the data input is captured (R71). -/
inductive CaptureEdge where
  | first
  | second
  deriving DecidableEq, Repr

/-- Whether each attempt waits for the ready input (R3). -/
inductive ReadyWait where
  | none
  | beforeStart
  deriving DecidableEq, Repr

/-- Which outcomes produce a RESPONSE (R3). -/
inductive ResponsePolicy where
  | always
  | errorsOnly
  deriving DecidableEq, Repr

/-- The configuration fields of a route entry, written together by WRITE_ROUTE (R1). -/
structure RouteConfig where
  label          : Nat
  lane           : LaneId
  selects        : BitVec 4
  shape          : Shape
  wordSize       : Nat
  clockDivisor   : Nat
  idleLevel      : Level
  captureEdge    : CaptureEdge
  sampleDelay    : Nat
  fillWord       : BitVec 32
  maxWrite       : Nat
  maxRead        : Nat
  readyWait      : ReadyWait
  readyTimeout   : Nat
  retryLimit     : Nat
  responsePolicy : ResponsePolicy
  replyLabel     : Nat
  permitted      : BitVec 64
  counterSet     : Option SetId
  deriving DecidableEq, Repr

/-- The configuration of an EMPTY entry (R6). -/
def RouteConfig.powerOn : RouteConfig where
  label          := 0
  lane           := 0
  selects        := 0
  shape          := .write
  wordSize       := 0
  clockDivisor   := 0
  idleLevel      := .low
  captureEdge    := .first
  sampleDelay    := 0
  fillWord       := 0
  maxWrite       := 0
  maxRead        := 0
  readyWait      := .none
  readyTimeout   := 0
  retryLimit     := 0
  responsePolicy := .always
  replyLabel     := 0
  permitted      := 0
  counterSet     := none

/-- A route entry (R1). Its index is its place in the table. -/
structure RouteEntry where
  config : RouteConfig
  state  : RouteState
  inUse  : Nat
  deriving DecidableEq, Repr

/-- An EMPTY entry (R6). -/
def RouteEntry.powerOn : RouteEntry := { config := .powerOn, state := .empty, inUse := 0 }

/-! ### Transaction Table -/

/-- The state of a slot (R47). -/
inductive SlotState where
  | free
  | queued
  | active
  | done
  deriving DecidableEq, Repr

/-- The outcome of an admitted transaction (R53). -/
inductive TxOutcome where
  | ok
  | contention
  | readyTimeout
  | cancelled
  | laneReset
  | laneOff
  | linkLost
  deriving DecidableEq, Repr

/-- A transaction slot (R46). The count of the reserved cells is the length of their list. -/
structure Slot where
  state          : SlotState
  source         : Source
  sequence       : BitVec 16
  route          : RouteId
  lane           : LaneId
  shape          : Shape
  wordBytes      : Nat
  writeCount     : Nat
  readCount      : Nat
  cells          : List Nat
  attempts       : Nat
  outcome        : Option TxOutcome
  orphan         : Bool
  responseStack  : List Nat
  responseWanted : Bool
  deriving DecidableEq, Repr

/-- The FREE values of a slot (R46). -/
def Slot.freed : Slot where
  state          := .free
  source         := 0
  sequence       := 0
  route          := 0
  lane           := 0
  shape          := .write
  wordBytes      := 1
  writeCount     := 0
  readCount      := 0
  cells          := []
  attempts       := 0
  outcome        := none
  orphan         := false
  responseStack  := []
  responseWanted := false

/-! ### Lane Engines -/

/-- The state of a lane engine (R66). -/
inductive LaneState where
  | off
  | idle
  | readyWait
  | shifting
  | gap
  | yielded
  deriving DecidableEq, Repr

/-- A lane engine (R65) with the levels at its select outputs and its ready and claim inputs (R90). A timer is `none` while
stopped and holds its remaining microseconds while it runs. -/
structure LaneEngine where
  enabled    : Bool
  claimWatch : Bool
  gap        : Nat
  state      : LaneState
  current    : Option SlotId
  readyTimer : Option Nat
  gapTimer   : Option Nat
  clockLevel : Level
  /-- the select lines that are asserted (R74) -/
  selectsOut : BitVec 4
  /-- the ready input is asserted (R90) -/
  readyIn    : Bool
  /-- the claim input is asserted (R90) -/
  claimIn    : Bool
  deriving DecidableEq, Repr

/-- A lane engine after power-on (R65, R88), its inputs not asserted (log 4). -/
def LaneEngine.powerOn : LaneEngine where
  enabled    := false
  claimWatch := true
  gap        := 0
  state      := .off
  current    := none
  readyTimer := none
  gapTimer   := none
  clockLevel := .low
  selectsOut := 0
  readyIn    := false
  claimIn    := false

/-! ### Flow Controller -/

/-- The flow mode (R95). -/
inductive FlowMode where
  | off
  | holdOnly
  | holdRelease
  deriving DecidableEq, Repr

/-- The outward flow state (R95). -/
inductive FlowState where
  | clear
  | holding
  deriving DecidableEq, Repr

/-- Where HOLD or EVENT frames go: a source and a stack of 1 to 3 labels (R95, R160). -/
structure Destination where
  source : Source
  stack  : List Nat
  deriving DecidableEq, Repr

/-- The flow settings, written together by SET_FLOW (R95). -/
structure FlowSettings where
  mode            : FlowMode
  poolHold        : Nat
  poolRelease     : Nat
  laneHold        : Nat
  laneRelease     : Nat
  holdTime        : Nat
  refreshInterval : Nat
  destination     : Option Destination
  deriving DecidableEq, Repr

/-- The contents of one outbound HOLD frame (R98). -/
structure HoldRequest where
  holdTime    : Nat
  lanes       : BitVec 8
  poolFlag    : Bool
  destination : Destination
  deriving DecidableEq, Repr

/-- The Flow Controller (R95). -/
structure FlowController where
  settings     : FlowSettings
  state        : FlowState
  poolFlag     : Bool
  heldLanes    : BitVec 8
  refreshTimer : Option Nat
  pendingHold  : Option HoldRequest
  deriving DecidableEq, Repr

/-- The Flow Controller after power-on (R95, R102). -/
def FlowController.powerOn : FlowController where
  settings :=
    { mode := .holdRelease, poolHold := 128, poolRelease := 256, laneHold := 12, laneRelease := 8,
      holdTime := 1000, refreshInterval := 500, destination := none }
  state        := .clear
  poolFlag     := false
  heldLanes    := 0
  refreshTimer := none
  pendingHold  := none

/-! ### Trunk Port -/

/-- The link state (R107). -/
inductive LinkState where
  | down
  | up
  deriving DecidableEq, Repr

/-- A frame in reception (R110): the CRC register over every byte but the last four, the last four bytes themselves (they are
the frame's CRC if the frame ends here), the count of all bytes and the stored ones, at most 1044. -/
structure Reception where
  crc    : BitVec 32
  tail   : List Byte
  count  : Nat
  stored : List Byte
  deriving DecidableEq, Repr

/-- A received frame after its header and stack were read (R169). -/
structure InFrame where
  kind     : Nat
  source   : Source
  sequence : BitVec 16
  labels   : List Nat
  body     : List Byte
  deriving DecidableEq, Repr

/-- A REQUEST or CANCEL frame in the admission list. `lost` records that the link went down while it waited: Admission then
discards it when it takes it (R23). -/
structure WaitingFrame where
  frame    : InFrame
  isCancel : Bool
  lost     : Bool
  deriving DecidableEq, Repr

/-- The Receiver (R107, R110, R23). -/
structure Receiver where
  link      : LinkState
  /-- whether the Receiver is in synchronisation (R107) -/
  inSync    : Bool
  /-- the synchronisation timer (R107): microseconds measured so far, `none` while it measures nothing -/
  syncTimer : Option Nat
  reception : Option Reception
  admission : List WaitingFrame
  deriving DecidableEq, Repr

/-- The Receiver after power-on (R107, R23). -/
def Receiver.powerOn : Receiver where
  link      := .down
  inSync    := false
  syncTimer := none
  reception := none
  admission := []

/-- Why a request was refused (R24). -/
inductive RefusalReason where
  | noRoute
  | routeClosed
  | routeDraining
  | sourceDenied
  | badShape
  | badLength
  | tooLong
  | duplicate
  | noSlot
  | laneOff
  | laneFull
  | noCells
  deriving DecidableEq, Repr

/-- The result of a CANCEL_ACK (R44). -/
inductive AckResult where
  | badLength
  | tooLate
  | unknown
  deriving DecidableEq, Repr

/-- Which frame a short-response record becomes, and its result (R36, R44, R117). -/
inductive ShortKind where
  | refusal (reason : RefusalReason)
  | cancelAck (result : AckResult)
  deriving DecidableEq, Repr

/-- A record of the short-response queue (R117). -/
structure ShortRecord where
  kind     : ShortKind
  source   : Source
  sequence : BitVec 16
  stack    : List Nat
  deriving DecidableEq, Repr

/-- Who asked for the frame being sent (R118); a repeat or first EVENT frame keeps its event number. -/
inductive Requester where
  | hold
  | mgmt
  | event (number : BitVec 8)
  | record
  | slot (index : SlotId)
  deriving DecidableEq, Repr

/-- A frame on the trunk output: every byte of it, the CRC included (R115, R118). -/
structure Sending where
  requester : Requester
  bytes     : List Byte
  deriving DecidableEq, Repr

/-- The last-served mark of the output arbiter (R119). -/
inductive ServedQueue where
  | short
  | completion
  deriving DecidableEq, Repr

/-- The delimiter last put on the trunk output (R110, R121): `none` while only idle characters have been sent. -/
inductive Delimiter where
  | none
  | start
  | stop
  | abort
  deriving DecidableEq, Repr

/-- The Transmitter (R117, R103, R118, R119). -/
structure Transmitter where
  /-- the frame being sent; the output is free while it is absent (R118) -/
  output      : Option Sending
  lastMark    : Delimiter
  shortQueue  : List ShortRecord
  /-- the inbound hold timer, in microseconds (R103) -/
  inboundHold : Nat
  lastServed  : ServedQueue
  deriving DecidableEq, Repr

/-- The Transmitter after power-on (R103, R117, R119). -/
def Transmitter.powerOn : Transmitter where
  output      := none
  lastMark    := .none
  shortQueue  := []
  inboundHold := 0
  lastServed  := .completion

/-! ### Management Agent -/

/-- The management results (R128). -/
inductive MgmtResult where
  | done
  | locked
  | notHolder
  | wrongSource
  | badOperation
  | badLength
  | badIndex
  | badValue
  | badEntry
  | labelInUse
  | wrongState
  deriving DecidableEq, Repr

/-- A request of the management queue (R124): `labels` are the frame's labels after the outer one. -/
structure MgmtRequest where
  source   : Source
  sequence : BitVec 16
  labels   : List Nat
  body     : List Byte
  deriving DecidableEq, Repr

/-- The MGMT_RESPONSE in the response buffer (R124); `fields` are the reply fields as R173 lays them out. -/
structure MgmtResponse where
  op       : Byte
  result   : MgmtResult
  fields   : List Byte
  stack    : List Nat
  source   : Source
  sequence : BitVec 16
  deriving DecidableEq, Repr

/-- The management agent (R124). -/
structure Agent where
  queue      : List MgmtRequest
  buffer     : Option MgmtResponse
  holder     : Option Source
  /-- the lease last given to the holder, in milliseconds -/
  lease      : Option Nat
  /-- the remaining lease, in microseconds -/
  remaining  : Nat
  maxFrame   : Nat
  replyLabel : Nat
  react      : Bool
  deriving DecidableEq, Repr

/-- The agent after power-on (R124, R134). -/
def Agent.powerOn : Agent where
  queue      := []
  buffer     := none
  holder     := none
  lease      := none
  remaining  := 0
  maxFrame   := 1040
  replyLabel := 1
  react      := true

/-! ### Counter Bank -/

/-- The 15 counters of a set (R150). -/
inductive SetCounter where
  | admitted
  | refused
  | doneOk
  | doneFail
  | wordsWritten
  | wordsRead
  | retries
  | contentions
  | readyTimeouts
  | len0to1
  | len2to3
  | len4to15
  | len16to63
  | len64to255
  | len256to512
  deriving DecidableEq, Repr

/-- The 14 device counters (R153). -/
inductive DeviceCounter where
  | framesReceived
  | framesSent
  | crcErrors
  | malformed
  | oversize
  | unknownKind
  | noRouteRefusals
  | shortDropped
  | mgmtDropped
  | responsesDiscarded
  | holdsSent
  | holdsReceived
  | eventsSent
  | linkDowns
  deriving DecidableEq, Repr

/-- The Counter Bank (R149, R153); the counters of a record stand in the order of its counter record (10.5). -/
structure CounterBank where
  sets   : Vector (Vector Counter 15) 32
  device : Vector Counter 14
  deriving DecidableEq, Repr

/-- Every counter 0 (R149, R153). -/
def CounterBank.powerOn : CounterBank where
  sets   := Vector.replicate 32 (Vector.replicate 15 0)
  device := Vector.replicate 14 0

/-! ### Event Unit -/

/-- The nine conditions (R161). -/
inductive Condition where
  | drainDone
  | laneContention
  | readyTimeout
  | shortLoss
  | mgmtLoss
  | lockExpired
  | poolLow
  | receiveError
  | linkRestored
  deriving DecidableEq, Repr

/-- A condition is clear, or set with its reported mark (R160). -/
inductive CondState where
  | clear
  | unreported
  | reported
  deriving DecidableEq, Repr

/-- The event state (R160). -/
inductive EventState where
  | quiet
  | requested
  | outstanding
  deriving DecidableEq, Repr

/-- The Event Unit (R160). -/
structure EventUnit where
  conditions     : Vector CondState 9
  contentionSet  : BitVec 8
  timeoutSet     : BitVec 8
  drained        : List RouteId
  mask           : BitVec 9
  destination    : Option Destination
  /-- the repeat interval, in milliseconds -/
  repeatInterval : Nat
  nextNumber     : BitVec 8
  state          : EventState
  outstanding    : Option (BitVec 8)
  /-- the event request is pending at the Transmitter -/
  request        : Bool
  /-- the repeat timer, in microseconds -/
  repeatTimer    : Option Nat
  deriving DecidableEq, Repr

/-- The Event Unit after power-on (R160, R168). -/
def EventUnit.powerOn : EventUnit where
  conditions     := Vector.replicate 9 .clear
  contentionSet  := 0
  timeoutSet     := 0
  drained        := []
  mask           := 0x1ff
  destination    := none
  repeatInterval := 0
  nextNumber     := 0
  state          := .quiet
  outstanding    := none
  request        := false
  repeatTimer    := none

/-! ### Cell Pool -/

/-- What a byte of the cell pool that nothing has written reads as: the spec gives no contents at power-on (log 5). -/
def Memory.unlisted : Byte := 0

/-- The contents of the 1024 cells of 32 bytes (R91): byte `o` of cell `c` has the address `32 * c + o`. A list of address and
byte in canonical form. -/
abbrev Memory := List Host.Cell

/-- The canonical form: addresses strictly rising, no entry equal to what an unlisted address reads as. -/
abbrev Memory.wf (m : Memory) : Prop :=
  m.Pairwise (fun a b => a.1 < b.1) ∧ ∀ c ∈ m, c.2 ≠ Memory.unlisted

/-! ### The bridge -/

/-- The state of the bridge. -/
structure State where
  /-- the Route Table (R1) -/
  routes     : Vector RouteEntry 128
  /-- the transaction slots (R46) -/
  slots      : Vector Slot 64
  /-- the lane queues (R48) -/
  queues     : Vector (List SlotId) 8
  /-- the completion queue (R56) -/
  completion : List SlotId
  /-- the lane engines (R65) -/
  lanes      : Vector LaneEngine 8
  /-- the free cell count (R91) -/
  freeCells  : Nat
  /-- the contents of the cells (R91) -/
  mem        : Memory
  /-- the Flow Controller (R95) -/
  flow       : FlowController
  /-- the Receiver (R107) -/
  receiver   : Receiver
  /-- the Transmitter (R117) -/
  trans      : Transmitter
  /-- the management agent (R124) -/
  agent      : Agent
  /-- the Counter Bank (R149, R153) -/
  counters   : CounterBank
  /-- the Event Unit (R160) -/
  events     : EventUnit
  /-- the Time Base: a free-running count of microseconds (00_scope.md) -/
  timeBase   : Nat
  /-- the reset line is asserted (R90) -/
  resetLine  : Bool
  /-- how many free values have been drawn from Config: the MODEL's own field -/
  draws      : Nat
  /-- the commands that wait, first in, first out: the MODEL's own field -/
  pending    : List Instr
  deriving DecidableEq, Repr

/-- The bridge after power-on: every block at its power-on values, the link DOWN, no command waiting. -/
def State.reset : State where
  routes     := Vector.replicate 128 .powerOn
  slots      := Vector.replicate 64 .freed
  queues     := Vector.replicate 8 []
  completion := []
  lanes      := Vector.replicate 8 .powerOn
  freeCells  := 1024
  mem        := []
  flow       := .powerOn
  receiver   := .powerOn
  trans      := .powerOn
  agent      := .powerOn
  counters   := .powerOn
  events     := .powerOn
  timeBase   := 0
  resetLine  := false
  draws      := 0
  pending    := []

/-- No command of this block stops it with a fault: a machine check, a trap or a halt is nowhere in the spec. The type has no
constructor, so a step is never a fault (safe: nothing is claimed of one). -/
inductive Fault where
  deriving DecidableEq, Repr

/-- Why a command has no meaning. -/
inductive Refusal where
  /-- Raised by an arm of exec for a command that has no meaning yet (none is left); safe: the run stops there. -/
  | notModelled (mnemonic : String)
  deriving DecidableEq, Repr

end Sys2Proof.Machine
end

