-- ==== Sys2Proof/Machine/Access.lean ====
section
/-!
DEFINITION. The one place where each collection of the state is read and written, and the counters.
-/
namespace Sys2Proof.Machine

/-! ### Reading and writing one element -/

/-- The route entry with index `r`. -/
def State.route (s : State) (r : RouteId) : RouteEntry := s.routes[r]

/-- Replace the route entry with index `r`. -/
def State.setRoute (s : State) (r : RouteId) (e : RouteEntry) : State := { s with routes := s.routes.set r e }

/-- The slot with index `i`. -/
def State.slot (s : State) (i : SlotId) : Slot := s.slots[i]

/-- Replace the slot with index `i`. -/
def State.setSlot (s : State) (i : SlotId) (t : Slot) : State := { s with slots := s.slots.set i t }

/-- The queue of lane `l`. -/
def State.queue (s : State) (l : LaneId) : List SlotId := s.queues[l]

/-- Replace the queue of lane `l`. -/
def State.setQueue (s : State) (l : LaneId) (q : List SlotId) : State := { s with queues := s.queues.set l q }

/-- The engine of lane `l`. -/
def State.lane (s : State) (l : LaneId) : LaneEngine := s.lanes[l]

/-- Replace the engine of lane `l`. -/
def State.setLane (s : State) (l : LaneId) (e : LaneEngine) : State := { s with lanes := s.lanes.set l e }

/-- The occupancy of a lane: its queued slots, plus 1 when it has an active slot (R48). -/
def State.occupancy (s : State) (l : LaneId) : Nat :=
  (s.queue l).length + (if (s.lane l).current.isSome then 1 else 0)

/-- The configuration of the route that a slot names. -/
def State.slotRoute (s : State) (i : SlotId) : RouteConfig := (s.route (s.slot i).route).config

/-- Whether a slot is other than FREE. -/
def Slot.live (t : Slot) : Bool := t.state != .free

/-! ### Counters -/

/-- The place of a counter in a set's record (10.5). -/
def SetCounter.index : SetCounter → Fin 15
  | .admitted => 0
  | .refused => 1
  | .doneOk => 2
  | .doneFail => 3
  | .wordsWritten => 4
  | .wordsRead => 5
  | .retries => 6
  | .contentions => 7
  | .readyTimeouts => 8
  | .len0to1 => 9
  | .len2to3 => 10
  | .len4to15 => 11
  | .len16to63 => 12
  | .len64to255 => 13
  | .len256to512 => 14

/-- The place of a device counter in the device record (10.5). -/
def DeviceCounter.index : DeviceCounter → Fin 14
  | .framesReceived => 0
  | .framesSent => 1
  | .crcErrors => 2
  | .malformed => 3
  | .oversize => 4
  | .unknownKind => 5
  | .noRouteRefusals => 6
  | .shortDropped => 7
  | .mgmtDropped => 8
  | .responsesDiscarded => 9
  | .holdsSent => 10
  | .holdsReceived => 11
  | .eventsSent => 12
  | .linkDowns => 13

/-- One counter of a set. -/
def State.setCount (s : State) (k : SetId) (c : SetCounter) : Counter := s.counters.sets[k][c.index]

/-- One device counter. -/
def State.deviceCount (s : State) (c : DeviceCounter) : Counter := s.counters.device[c.index]

/-- The bank with `n` added to a counter of the set a route names; nothing is added when it names NONE (R150). A counter wraps (R154). -/
def CounterBank.addSet (k : Option SetId) (c : SetCounter) (n : Nat) (b : CounterBank) : CounterBank :=
  match k with
  | none => b
  | some k => { b with sets := b.sets.set k ((b.sets[k]).set c.index (b.sets[k][c.index] + BitVec.ofNat 40 n)) }

/-- Add `n` to a counter of the set a route names (R150). -/
def bumpSet (k : Option SetId) (c : SetCounter) (n : Nat) (s : State) : State :=
  { s with counters := s.counters.addSet k c n }

/-- Add `n` to a device counter (R153). A counter wraps (R154). -/
def bumpDevice (c : DeviceCounter) (n : Nat) (s : State) : State :=
  { s with counters := { s.counters with
      device := s.counters.device.set c.index (s.counters.device[c.index] + BitVec.ofNat 40 n) } }

end Sys2Proof.Machine
end

