-- ==== Sys2Proof/Machine/Flags.lean ====
section
/-!
DEFINITION. The status indications: the conditions of the Event Unit and the judging of an EVENT request; the pool flag, the held
lane set and the flow state of the Flow Controller.
-/
namespace Sys2Proof.Machine

/-! ### Conditions -/

/-- The bit of a condition (R172's condition table). -/
def Condition.index : Condition → Fin 9
  | .drainDone => 0
  | .laneContention => 1
  | .readyTimeout => 2
  | .shortLoss => 3
  | .mgmtLoss => 4
  | .lockExpired => 5
  | .poolLow => 6
  | .receiveError => 7
  | .linkRestored => 8

/-- The state of a condition. -/
def EventUnit.cond (e : EventUnit) (c : Condition) : CondState := e.conditions[c.index]

/-- At least one condition that is not masked is set and unreported (R163). -/
def EventUnit.hasNews (e : EventUnit) : Bool :=
  (List.finRange 9).any fun i => e.conditions[i] == .unreported && !e.mask.getLsbD i

/-- The set of the conditions that are set. -/
def EventUnit.setMembers (e : EventUnit) : BitVec 9 := BitVec.ofFnLE fun i => e.conditions[i] != .clear

/-- Every condition that is set becomes unreported (R165, R167). -/
def EventUnit.unreport (e : EventUnit) : EventUnit :=
  { e with conditions := e.conditions.map fun c => if c = .clear then .clear else .unreported }

/-- Every condition that is set becomes reported (R164). -/
def EventUnit.report (e : EventUnit) : EventUnit :=
  { e with conditions := e.conditions.map fun c => if c = .clear then .clear else .reported }

/-- The event in progress ends: QUIET, no outstanding number, the repeat timer stopped, a pending request withdrawn
(R165, R166, R167). -/
def EventUnit.endEvent (e : EventUnit) : EventUnit :=
  { e with state := .quiet, outstanding := none, request := false, repeatTimer := none }

/-- The repeat timer starts anew with the repeat interval, and stands still with interval 0 (R164, R165). -/
def EventUnit.startRepeat (e : EventUnit) : EventUnit :=
  { e with repeatTimer := if e.repeatInterval = 0 then none else some (e.repeatInterval * 1000) }

/-- The judgement whether to request an EVENT frame, under a link state (R163). -/
def EventUnit.judge (link : LinkState) (e : EventUnit) : EventUnit :=
  if e.state = .quiet ∧ e.destination.isSome ∧ link = .up ∧ e.hasNews then { e with state := .requested, request := true } else e

/-- Judge whether to request an EVENT frame (R163). -/
def judgeEvent (s : State) : State := { s with events := s.events.judge s.receiver.link }

/-- Make a condition set and unreported, without judging (R162). -/
def EventUnit.mark (c : Condition) (e : EventUnit) : EventUnit :=
  { e with conditions := e.conditions.set c.index .unreported }

/-- Set a condition (R162). -/
def setCondition (c : Condition) (s : State) : State :=
  { s with events := (s.events.mark c).judge s.receiver.link }

/-- Set LANE_CONTENTION and record its lane (R162). -/
def setContention (l : LaneId) (s : State) : State :=
  setCondition .laneContention
    { s with events := { s.events with contentionSet := s.events.contentionSet ||| (1#8 <<< l.val) } }

/-- Set READY_TIMEOUT and record its lane (R162). -/
def setReadyTimeout (l : LaneId) (s : State) : State :=
  setCondition .readyTimeout
    { s with events := { s.events with timeoutSet := s.events.timeoutSet ||| (1#8 <<< l.val) } }

/-- A drain completion at the Event Unit: DRAIN_DONE is set, and the entry's index joins the tail of the drained-route list, where it
is not yet (R162). -/
def EventUnit.drainDone (link : LinkState) (r : RouteId) (e : EventUnit) : EventUnit :=
  (EventUnit.mark .drainDone { e with drained := if r ∈ e.drained then e.drained else e.drained ++ [r] }).judge link

/-- A drain completion (R18, R162). -/
def setDrainDone (r : RouteId) (s : State) : State := { s with events := s.events.drainDone s.receiver.link r }

/-! ### The Flow Controller -/

/-- The pool flag after it is judged: raised at or below the hold level, lowered at or above the release level, kept in
between (R96). -/
def poolFlagNext (g : FlowSettings) (old : Bool) (free : Nat) : Bool :=
  if free ≤ g.poolHold then true else if g.poolRelease ≤ free then false else old

/-- A lane's membership of the held lane set after it is judged (R96). -/
def laneHeldNext (g : FlowSettings) (old : Bool) (occ : Nat) : Bool :=
  if g.laneHold ≤ occ then true else if occ ≤ g.laneRelease then false else old

/-- The held lane set after it is judged on the occupancies of the lanes (R96). -/
def heldNext (g : FlowSettings) (old : BitVec 8) (occ : LaneId → Nat) : BitVec 8 :=
  BitVec.ofFnLE fun l => laneHeldNext g (old.getLsbD l) (occ l)

/-- The pressure stands when the pool flag is raised or a lane is held (R97). -/
def FlowController.pressure (f : FlowController) : Bool := f.poolFlag || f.heldLanes != 0

/-- Make a request of the given contents, replacing one the Transmitter has not begun: none is made while there is no
destination, while the link is down or while the mode is OFF (R98). -/
def FlowController.requestFrame (link : LinkState) (holdTime : Nat) (lanes : BitVec 8) (flag : Bool) (f : FlowController) :
    FlowController :=
  match f.settings.destination with
  | none => f
  | some d =>
    if link = .up ∧ f.settings.mode ≠ .off then
      { f with pendingHold := some { holdTime := holdTime, lanes := lanes, poolFlag := flag, destination := d } }
    else f

/-- A hold request, with the hold time setting, the held lane set and the pool flag as they stand (R98). -/
def FlowController.requestHold (link : LinkState) (f : FlowController) : FlowController :=
  f.requestFrame link f.settings.holdTime f.heldLanes f.poolFlag

/-- A release request: hold time 0, an empty lane set, the pool flag lowered (R98). -/
def FlowController.requestRelease (link : LinkState) (f : FlowController) : FlowController := f.requestFrame link 0 0 false

/-- Withdraw a pending hold request (R97, R100). -/
def FlowController.withdrawHold (f : FlowController) : FlowController := { f with pendingHold := none }

/-- Start or restart the refresh timer with the refresh interval: it runs with the link up only (R99). -/
def FlowController.startRefresh (link : LinkState) (f : FlowController) : FlowController :=
  { f with refreshTimer := if link = .up then some f.settings.refreshInterval else none }

/-- Enter HOLDING, or stay in it, with a hold request and the refresh timer restarted (R97). -/
def FlowController.holdAnew (link : LinkState) (f : FlowController) : FlowController :=
  (FlowController.requestHold link { f with state := .holding }).startRefresh link

/-- The flow state becomes CLEAR and the refresh timer stops (R97). -/
def FlowController.clear (f : FlowController) : FlowController := { f with state := .clear, refreshTimer := none }

/-- The pressure is gone after standing: CLEAR, with a release request in HOLD_RELEASE and a pending request withdrawn
otherwise (R97, R100). -/
def FlowController.release (link : LinkState) (f : FlowController) : FlowController :=
  if f.settings.mode = .holdRelease then f.clear.requestRelease link else f.clear.withdrawHold

/-- Judge the pool flag and the held lane set on given earlier values; each raising of the flag sets POOL_LOW (R96). -/
def judgeLevels (oldFlag : Bool) (oldHeld : BitVec 8) (s : State) : State :=
  let flag := poolFlagNext s.flow.settings oldFlag s.freeCells
  { s with
    flow := { s.flow with poolFlag := flag, heldLanes := heldNext s.flow.settings oldHeld s.occupancy }
    events := if flag && !s.flow.poolFlag then (s.events.mark .poolLow).judge s.receiver.link else s.events }

/-- The flow state after a judgement that left the flag or the set `changed` (R97). -/
def FlowController.move (link : LinkState) (changed : Bool) (f : FlowController) : FlowController :=
  if f.settings.mode = .off then f.clear
  else match f.state, f.pressure with
    | .clear, true => f.holdAnew link
    | .clear, false => f
    | .holding, true => if changed then f.holdAnew link else f
    | .holding, false => f.release link

/-- The judgement of an event that changes the free cell count or an occupancy, once on the values the whole event leaves
(R96, R97). -/
def judgeFlow (s : State) : State :=
  let s1 := judgeLevels s.flow.poolFlag s.flow.heldLanes s
  let changed := s1.flow.poolFlag != s.flow.poolFlag || s1.flow.heldLanes != s.flow.heldLanes
  { s1 with flow := s1.flow.move s.receiver.link changed }

/-- The Flow Controller's part of link down, after the Transaction Table's: the refresh timer stopped, the pending request
dropped, flag and set judged without regard to their earlier values, no frame requested (R101). -/
def flowLinkDown (s : State) : State :=
  let s1 := judgeLevels false 0 s
  { s1 with flow := { s1.flow with
      refreshTimer := none
      pendingHold := none
      state := if s1.flow.settings.mode ≠ .off ∧ s1.flow.pressure then .holding else .clear } }

/-- The Flow Controller's part of link up: a hold request and the refresh timer when it stands HOLDING with a destination
(R101). -/
def flowLinkUp (s : State) : State :=
  { s with flow :=
      if s.flow.state = .holding ∧ s.flow.settings.mode ≠ .off ∧ s.flow.settings.destination.isSome then
        (s.flow.requestHold s.receiver.link).startRefresh s.receiver.link
      else s.flow }

end Sys2Proof.Machine
end

