-- ==== Sys2Proof/Machine/Bytes.lean ====
section
/-!
DEFINITION. Byte order (R171: most significant byte first), bits of words and the CRC of a frame (R170).
-/
namespace Sys2Proof.Machine

/-- `n` as `k` bytes, the most significant first (R171); bits above the field are dropped. -/
def beBytes : Nat → Nat → List Byte
  | 0, _ => []
  | k + 1, n => BitVec.ofNat 8 (n / 256 ^ k) :: beBytes k n

/-- The unsigned number that bytes carry, the most significant first (R171). -/
def beNat (bs : List Byte) : Nat := bs.foldl (fun a b => a * 256 + b.toNat) 0

/-- The number in the field of `len` bytes at offset `off`. -/
def fieldAt (bs : List Byte) (off len : Nat) : Nat := beNat ((bs.drop off).take len)

/-- The number in the byte at offset `off`. -/
def byteAt (bs : List Byte) (off : Nat) : Nat := (bs.getD off 0).toNat

/-- A yes/no or on/off field: 0 or 1 (R171). -/
def boolByte (b : Bool) : Byte := if b then 1 else 0

/-- The value of a yes/no or on/off field; any other code is none (R171). -/
def boolOf : Nat → Option Bool
  | 0 => some false
  | 1 => some true
  | _ => none

/-- The number that bits spell, the first one the most significant (R72). -/
def bitsToNat (bits : List Bool) : Nat := bits.foldl (fun a b => 2 * a + b.toNat) 0

/-- The lowest `size` bits of a word, the most significant first (R72). -/
def wordBits (size w : Nat) : List Bool := (List.range size).map fun j => w.testBit (size - 1 - j)

/-- One bit enters the CRC register: generator 0x04C11DB7, no reflection (R170). -/
def crcBit (r : BitVec 32) (bit : Bool) : BitVec 32 :=
  if r.msb ^^ bit then (r <<< 1) ^^^ 0x04C11DB7#32 else r <<< 1

/-- One byte enters the CRC register, most significant bit first (R170). -/
def crcByte (r : BitVec 32) (b : Byte) : BitVec 32 :=
  [7, 6, 5, 4, 3, 2, 1, 0].foldl (fun r i => crcBit r (b.getLsbD i)) r

/-- The CRC register before the first byte: all ones (R170). -/
def crcStart : BitVec 32 := BitVec.allOnes 32

/-- The CRC of bytes: the register after the last of them, complemented (R170). -/
def crc32 (bs : List Byte) : BitVec 32 := ~~~ (bs.foldl crcByte crcStart)

/-- A CRC as its four bytes (R170). -/
def crcBytes (c : BitVec 32) : List Byte := beBytes 4 c.toNat

end Sys2Proof.Machine
end

