-- ==== Sys2Proof/Machine/CellMemory.lean ====
section
/-!
DEFINITION. Reading and writing the bytes of the cell pool (R91, R93) in its one canonical form.
-/
namespace Sys2Proof.Machine

/-- The byte at an address of the pool. -/
def readByte : Memory → Nat → Byte
  | [], _ => Memory.unlisted
  | (a, b) :: m, x => if a = x then b else readByte m x

/-- Put an entry in front, unless it is what an unlisted address reads as. -/
def consByte (x : Nat) (v : Byte) (m : Memory) : Memory :=
  if v = Memory.unlisted then m else (x, v) :: m

/-- Write one byte, keeping the canonical form. -/
def writeByte (x : Nat) (v : Byte) : Memory → Memory
  | [] => consByte x v []
  | (a, b) :: m =>
    if x < a then consByte x v ((a, b) :: m)
    else if x = a then consByte x v m
    else (a, b) :: writeByte x v m

/-- The address of byte `k` of the data held in a list of cells, which are filled one after another (R38). -/
def dataAddr (cells : List Nat) (k : Nat) : Nat := cells.getD (k / 32) 0 * 32 + k % 32

/-- Store bytes in cells from byte `k` on (R38). -/
def storeBytes (cells : List Nat) : Nat → List Byte → Memory → Memory
  | _, [], m => m
  | k, b :: bs, m => storeBytes cells (k + 1) bs (writeByte (dataAddr cells k) b m)

/-- The first `n` bytes held in cells (R38, R55). -/
def loadBytes (cells : List Nat) (n : Nat) (m : Memory) : List Byte :=
  (List.range n).map fun k => readByte m (dataAddr cells k)

/-- The cells that hold `n` bytes: divided by 32 and rounded up (R34). -/
def cellsFor (n : Nat) : Nat := (n + 31) / 32

/-- Take `n` cells out of those available, in an order the spec leaves open (R91, log 1): each next cell is the one the
free value picks. -/
def pickCells : Nat → Nat → List Nat → List Nat
  | 0, _, _ => []
  | n + 1, draw, avail =>
    match avail with
    | [] => []
    | a :: rest =>
      let c := (a :: rest).getD (Config.cellPick draw % (a :: rest).length) a
      c :: pickCells n (draw + 1) ((a :: rest).erase c)

end Sys2Proof.Machine
end

