-- ==== Sys2Proof/Machine/Waveform.lean ====
section
/-!
DEFINITION. What an attempt shifts out, when it captures, how long it lasts, and the levels at a lane's pins (R71 to R75, R90).
Times within an attempt are counted in periods of the 100 MHz lane reference from the assertion of the selects.
-/
namespace Sys2Proof.Machine

/-! ### Words of an attempt -/

/-- How many of a slot's cells are write cells: they come first in its list (R34, R46). -/
def Slot.writeCellCount (t : Slot) : Nat := cellsFor (t.writeCount * t.wordBytes)

/-- The slot's write cells. -/
def Slot.writeCells (t : Slot) : List Nat := t.cells.take t.writeCellCount

/-- The slot's read cells. -/
def Slot.readCells (t : Slot) : List Nat := t.cells.drop t.writeCellCount

/-- `n` words of `wb` bytes each out of stored bytes, in order (R38). -/
def wordsOf (n wb : Nat) (bs : List Byte) : List Nat :=
  (List.range n).map fun j => beNat ((bs.drop (j * wb)).take wb)

/-- The write words of a slot, as its write cells hold them (R72). -/
def writeWords (s : State) (t : Slot) : List Nat :=
  wordsOf t.writeCount t.wordBytes (loadBytes t.writeCells (t.writeCount * t.wordBytes) s.mem)

/-- The words an attempt shifts out, in order (R73). -/
def wordsOut (s : State) (g : RouteConfig) (t : Slot) : List Nat :=
  match t.shape with
  | .write => writeWords s t
  | .read => List.replicate t.readCount g.fillWord.toNat
  | .exchange => writeWords s t
  | .commandRead => writeWords s t ++ List.replicate t.readCount g.fillWord.toNat

/-- The bits an attempt shifts out, in order: of each word the word-size lowest bits, most significant first (R72). -/
def bitsOut (s : State) (g : RouteConfig) (t : Slot) : List Bool :=
  (wordsOut s g t).flatMap (wordBits g.wordSize)

/-- The number of words on the lane (R73). -/
def laneWords (t : Slot) : Nat :=
  match t.shape with
  | .write => t.writeCount
  | .read => t.readCount
  | .exchange => t.writeCount
  | .commandRead => t.writeCount + t.readCount

/-- The number of bit periods of an attempt (R73, R75). -/
def laneBits (g : RouteConfig) (t : Slot) : Nat := laneWords t * g.wordSize

/-- The words an attempt captures (R73). -/
def capturedWords (t : Slot) : Nat :=
  match t.shape with
  | .write => 0
  | .read => t.readCount
  | .exchange => t.readCount
  | .commandRead => t.readCount

/-- The bit period in which the first captured bit falls: a COMMAND_READ captures during its fill words (R73). -/
def firstCaptureBit (g : RouteConfig) (t : Slot) : Nat :=
  match t.shape with
  | .commandRead => t.writeCount * g.wordSize
  | _ => 0

/-! ### Times within an attempt -/

/-- When bit period `k` begins: the first one half a bit period after the selects are asserted (R74). -/
def bitStart (g : RouteConfig) (k : Nat) : Nat := g.clockDivisor / 2 + k * g.clockDivisor

/-- When the first edge of a bit period falls, counted from its beginning (R71). -/
def firstEdge (g : RouteConfig) : Nat :=
  match g.captureEdge with
  | .first => g.clockDivisor / 2
  | .second => 0

/-- When the second edge of a bit period falls, counted from its beginning (R71). -/
def secondEdge (g : RouteConfig) : Nat :=
  match g.captureEdge with
  | .first => g.clockDivisor
  | .second => g.clockDivisor / 2

/-- When the data input is captured for bit period `k`: at its first or second edge, postponed by the sample delay (R71). -/
def captureTime (g : RouteConfig) (k : Nat) : Nat :=
  bitStart g k + (match g.captureEdge with | .first => firstEdge g | .second => secondEdge g) + g.sampleDelay

/-- How long an attempt lasts that runs to its end, in periods of the lane reference (R75): a select pulse one bit period;
otherwise half a bit period and every bit, or until the last capture where that comes later. -/
def attemptPeriods (g : RouteConfig) (t : Slot) : Nat :=
  if laneBits g t = 0 then g.clockDivisor
  else
    let shifted := g.clockDivisor / 2 + laneBits g t * g.clockDivisor
    if capturedWords t = 0 then shifted else max shifted (captureTime g (laneBits g t - 1))

/-! ### Capture -/

/-- Captured word `j`, assembled from the levels of the data input at its capture times, the first bit the most significant
(R72). Past the end of the record the level is low (log 3). -/
def capturedWord (g : RouteConfig) (t : Slot) (din : List Bool) (j : Nat) : Nat :=
  bitsToNat ((List.range g.wordSize).map fun b =>
    din.getD (captureTime g (firstCaptureBit g t + j * g.wordSize + b)) false)

/-- The bytes that `n` captured words fill: each right-justified in the slot's word bytes (R72). -/
def capturedBytes (g : RouteConfig) (t : Slot) (din : List Bool) (n : Nat) : List Byte :=
  (List.range n).flatMap fun j => beBytes t.wordBytes (capturedWord g t din j)

/-- How many words an attempt had captured whole when it was cut short after `elapsed` periods (R79). -/
def wordsCapturedBy (g : RouteConfig) (t : Slot) (elapsed : Nat) : Nat :=
  ((List.range (capturedWords t)).filter fun j =>
    captureTime g (firstCaptureBit g t + (j + 1) * g.wordSize - 1) < elapsed).length

/-- Place the first `n` captured words of slot `i` in its read cells, from the first read word on (R72). -/
def storeCaptured (i : SlotId) (din : List Bool) (n : Nat) (s : State) : State :=
  { s with mem := storeBytes (s.slot i).readCells 0 (capturedBytes (s.slotRoute i) (s.slot i) din n) s.mem }

/-- The attempt of slot `i` is cut short at the end of the record `din`: the words captured whole by then stand in its read cells,
and no later one is written (R72, R79). -/
def captureBefore (i : SlotId) (din : List Bool) (s : State) : State :=
  storeCaptured i din (wordsCapturedBy (s.slotRoute i) (s.slot i) din.length) s

/-- A management operation cuts the attempt of slot `i` short (R79, R84): the record of the data input up to that moment, its length
included, is one free value (log 2). -/
def strayCaptures (i : SlotId) (s : State) : State :=
  { captureBefore i (Config.strayRecord s.draws) s with draws := s.draws + 1 }

/-! ### Levels at the pins -/

/-- What stands at an output pin (R90). -/
inductive PinLevel where
  | low
  | high
  | highZ
  /-- high impedance with the weak internal pull-up of a select output -/
  | pulledUp
  deriving DecidableEq, Repr

/-- A level driven at a pin. -/
def PinLevel.ofLevel : Level → PinLevel
  | .low => .low
  | .high => .high

/-- The level a clock leaves its idle level for. -/
def Level.other : Level → Level
  | .low => .high
  | .high => .low

/-- The select output of line `k` of lane `l`: low when asserted, high when released, pulled up while the reset line is
asserted (R90). -/
def selectPin (s : State) (l : LaneId) (k : Fin 4) : PinLevel :=
  if s.resetLine then .pulledUp else if (s.lane l).selectsOut.getLsbD k then .low else .high

/-- The slot an engine shifts, with its route. -/
def shiftingSlot (s : State) (l : LaneId) : Option (RouteConfig × Slot) :=
  match (s.lane l).state, (s.lane l).current with
  | .shifting, some i => some (s.slotRoute i, s.slot i)
  | _, _ => none

/-- The clock output of lane `l`, in an attempt `time` periods after the selects were asserted (R66, R71, R85). -/
def clockPin (s : State) (l : LaneId) (time : Nat) : PinLevel :=
  if s.resetLine then .highZ
  else match shiftingSlot s l with
    | none => .ofLevel (s.lane l).clockLevel
    | some (g, t) =>
      let at_ := time - bitStart g 0
      let phase := at_ % g.clockDivisor
      if bitStart g 0 ≤ time ∧ at_ / g.clockDivisor < laneBits g t ∧ firstEdge g ≤ phase ∧ phase < secondEdge g then
        .ofLevel g.idleLevel.other
      else .ofLevel g.idleLevel

/-- The data output of lane `l`: low outside an attempt (R66); in one, the bit of the bit period, changed at its start or at its
first edge (R71), which is the start in both capture modes. Before the first and after the last bit period the spec gives no
level (log 6): `none`. -/
def dataPin (s : State) (l : LaneId) (time : Nat) : Option PinLevel :=
  if s.resetLine then some .highZ
  else match shiftingSlot s l with
    | none => some .low
    | some (g, t) =>
      if time < bitStart g 0 then none
      else ((bitsOut s g t)[(time - bitStart g 0) / g.clockDivisor]?).map fun b => if b then .high else .low

/-- What the trunk transmit pair carries (R123). -/
inductive TransmitSignal where
  /-- held at the common-mode level, with no characters sent -/
  | commonMode
  /-- idle characters -/
  | idle
  /-- the bytes of a frame, between its two delimiters -/
  | frame (bytes : List Byte)
  deriving DecidableEq, Repr

/-- The transmit pair (R123): common mode while the reset line is asserted; else the frame being sent, and idle characters whenever
there is none, whatever the link state. -/
def transmitPair (s : State) : TransmitSignal :=
  if s.resetLine then .commonMode
  else match s.trans.output with
    | none => .idle
    | some f => .frame f.bytes

end Sys2Proof.Machine
end

