-- ==== Sys2Proof/Machine/Ops.lean ====
section
/-!
DEFINITION. The operations that more than one command shares: looking up routes and slots, freeing slots, deciding outcomes, ending
and stopping attempts, records of the short-response queue, the resets.
-/
namespace Sys2Proof.Machine

/-! ### Lookups -/

/-- The entry that a label finds: an entry that is not EMPTY and holds it (R7). At most one does (R8). -/
def lookup (label : Nat) (s : State) : Option RouteId :=
  (List.finRange 128).find? fun r => (s.route r).state != .empty && (s.route r).config.label == label

/-- The slot other than a FREE one that holds a source and sequence (R31, R40). -/
def findPair (source : Source) (sequence : BitVec 16) (s : State) : Option SlotId :=
  (List.finRange 64).find? fun i =>
    (s.slot i).live && (s.slot i).source == source && (s.slot i).sequence == sequence

/-- The FREE slot with the lowest index (R32). -/
def lowestFree (s : State) : Option SlotId := (List.finRange 64).find? fun i => (s.slot i).state == .free

/-- The space a word takes in a frame (R2). -/
def wordBytes (wordSize : Nat) : Nat := if wordSize ≤ 8 then 1 else if wordSize ≤ 16 then 2 else 4

/-! ### Freeing slots -/

/-- How many of the slots `is` name route `r`. -/
def namedBy (is : List SlotId) (s : State) (r : RouteId) : Nat :=
  (is.filter fun i => (s.slot i).route == r).length

/-- A freeing of `n` slots of an entry completes its drain (R18). -/
def RouteEntry.drains (e : RouteEntry) (n : Nat) : Bool := e.state == .draining && n != 0 && e.inUse ≤ n

/-- An entry after `n` slots that name it are freed in one event (R17, R59). -/
def RouteEntry.release (e : RouteEntry) (n : Nat) : RouteEntry :=
  { e with inUse := e.inUse - n, state := if e.drains n then .closed else e.state }

/-- The entries whose drain one freeing completes, in ascending order of index (R59). -/
def drainedBy (is : List SlotId) (s : State) : List RouteId :=
  (List.finRange 128).filter fun r => (s.route r).drains (namedBy is s r)

/-- Free slots in one event: their cells return, their routes' in-use counts fall, drains complete, and the slots take their FREE
values (R58, R59). -/
def freeSlots (is : List SlotId) (s : State) : State :=
  { s with
    freeCells := s.freeCells + (is.map fun i => (s.slot i).cells.length).sum
    routes := Vector.ofFn fun r => (s.route r).release (namedBy is s r)
    slots := Vector.ofFn fun i => if i ∈ is then Slot.freed else s.slot i
    events := (drainedBy is s).foldl (fun e r => e.drainDone s.receiver.link r) s.events }

/-! ### Outcomes -/

/-- The length bucket of a successful transaction (R151). -/
def lengthBucket (words : Nat) : SetCounter :=
  if words ≤ 1 then .len0to1
  else if words ≤ 3 then .len2to3
  else if words ≤ 15 then .len4to15
  else if words ≤ 63 then .len16to63
  else if words ≤ 255 then .len64to255
  else .len256to512

/-- The bank with a decided outcome of a slot counted in a set (R54). -/
def CounterBank.addOutcome (k : Option SetId) (t : Slot) (o : TxOutcome) (b : CounterBank) : CounterBank :=
  if o = .ok then
    (((b.addSet k .doneOk 1).addSet k .wordsWritten t.writeCount).addSet k .wordsRead t.readCount).addSet k
      (lengthBucket (t.writeCount + t.readCount)) 1
  else b.addSet k .doneFail 1

/-- The count of a decided outcome in the counter set of the slot's route (R54). -/
def countOutcome (i : SlotId) (o : TxOutcome) (s : State) : State :=
  { s with counters := s.counters.addOutcome (s.slotRoute i).counterSet (s.slot i) o }

/-- Whether the decision of an outcome frees the slot at once, without a response (R53). -/
def freedAtOnce (t : Slot) (o : TxOutcome) : Bool :=
  o == .linkLost || t.orphan || (o == .ok && !t.responseWanted)

/-- Decide the outcome of slot `i`: set it, count it, and place the slot (R53). The slot has left its queue or its lane. -/
def decideOutcome (i : SlotId) (o : TxOutcome) (s : State) : State :=
  let s1 := countOutcome i o s
  if freedAtOnce (s.slot i) o then freeSlots [i] s1
  else
    { s1.setSlot i { s.slot i with outcome := some o, state := .done } with
      completion := s1.completion ++ [i] }

/-- What becomes of a slot whose attempt failed, its failure counted and the lane's current slot cleared: it returns to the head
of its lane's queue, or the failure is its outcome (R82). -/
def retryOrDecide (l : LaneId) (i : SlotId) (o : TxOutcome) (s : State) : State :=
  let t := s.slot i
  if t.attempts ≤ (s.slotRoute i).retryLimit ∧ t.orphan = false then
    bumpSet (s.slotRoute i).counterSet .retries 1
      ((s.setSlot i { t with state := .queued }).setQueue l (i :: s.queue l))
  else judgeFlow (decideOutcome i o s)

/-! ### Lane engines -/

/-- The claim input is asserted and watched (R67). -/
def LaneEngine.claimed (e : LaneEngine) : Bool := e.claimIn && e.claimWatch

/-- A lane entering IDLE enters YIELDED instead when its claim is held and watched (R67). -/
def LaneEngine.enterIdle (e : LaneEngine) : LaneEngine :=
  { e with state := if e.claimed then .yielded else .idle }

/-- A lane entering GAP: the gap timer starts, or with gap 0 the lane enters IDLE at once (R77). -/
def LaneEngine.enterGap (e : LaneEngine) : LaneEngine :=
  if e.gap = 0 then e.enterIdle else { e with state := .gap, gapTimer := some e.gap }

/-- A lane engine whose attempt is over or stopped: no current slot, timers stopped, selects released. The clock output is at
the clock level, which is the route's idle level, and the data output low (R79, R84). -/
def LaneEngine.quit (e : LaneEngine) : LaneEngine :=
  { e with current := none, readyTimer := none, gapTimer := none, selectsOut := 0 }

/-- The attempt of lane `l` ends by contention (R79): counted, LANE_CONTENTION set, the retry decided, the lane YIELDED. -/
def contentionAbort (l : LaneId) (s : State) : State :=
  match (s.lane l).current with
  | none => s
  | some i =>
    retryOrDecide l i .contention
      (setContention l
        (bumpSet (s.slotRoute i).counterSet .contentions 1
          (s.setLane l { (s.lane l).quit with state := .yielded })))

/-- An assertion of a watched claim acts on the lane according to its state (R78). -/
def claimActs (l : LaneId) (s : State) : State :=
  match (s.lane l).state with
  | .off => s
  | .idle => s.setLane l { s.lane l with state := .yielded }
  | .readyWait => contentionAbort l s
  | .shifting => contentionAbort l s
  | .gap => s.setLane l { s.lane l with state := .yielded, gapTimer := none }
  | .yielded => s

/-- The attempt of lane `l`, if it shifts, is stopped at a moment the model does not follow (log 2). -/
def strayIfShifting (l : LaneId) (s : State) : State :=
  match (s.lane l).state, (s.lane l).current with
  | .shifting, some i => strayCaptures i s
  | _, _ => s

/-- A lane flush: the given outcome for the active slot first, then for the queued slots from head to tail (R52). The engine is
given as it stands after the stop. -/
def flushLane (l : LaneId) (o : TxOutcome) (e : LaneEngine) (s : State) : State :=
  let members := (s.lane l).current.toList ++ s.queue l
  members.foldl (fun t i => decideOutcome i o t) ((s.setLane l e).setQueue l [])

/-! ### The short-response queue -/

/-- A record joins the tail of the short-response queue, or is dropped when the queue holds 16, which SHORT_DROPPED counts and
SHORT_LOSS reports (R36, R44, R117). -/
def addRecord (r : ShortRecord) (s : State) : State :=
  if s.trans.shortQueue.length < 16 then
    { s with trans := { s.trans with shortQueue := s.trans.shortQueue ++ [r] } }
  else setCondition .shortLoss (bumpDevice .shortDropped 1 s)

/-- The reply stack of an answer headed by the device reply label: the incoming frame's labels after its outer one follow
(R19, R21). -/
def replyStack (s : State) (labels : List Nat) : List Nat := s.agent.replyLabel :: labels.tail

/-! ### The output -/

/-- A frame being sent is cut off with an abort delimiter (R121, R122); while the reset line is asserted no character is sent, the
delimiter neither (R123). -/
def Transmitter.cutOff (resetLine : Bool) (x : Transmitter) : Transmitter :=
  { x with output := none, lastMark := if x.output.isSome && !resetLine then .abort else x.lastMark }

/-! ### Resets -/

/-- The lane engines of power-on, the levels at their input pins as they stand (R88, log 4). -/
def resetLanes (s : State) : Vector LaneEngine 8 :=
  s.lanes.map fun e => { LaneEngine.powerOn with readyIn := e.readyIn, claimIn := e.claimIn }

/-- Power-on: every block takes its power-on values, the link DOWN. The levels at the lane inputs are the board's; the queue of
commands and the count of free values are the model's (log 4, log 7). -/
def powerOn (s : State) : State :=
  { State.reset with lanes := resetLanes s, draws := s.draws, pending := s.pending }

/-- The device reset: every block takes its power-on values, but the link state, synchronisation, a frame in reception and the
admission list stand, and a frame being sent is cut off (R147, R107, R122, R23). -/
def deviceReset (s : State) : State :=
  let s1 := (List.finRange 8).foldl (fun t l => strayIfShifting l t) s
  { State.reset with
    lanes := resetLanes s
    mem := s1.mem
    receiver := s.receiver
    trans := { Transmitter.powerOn with lastMark := (s.trans.cutOff s.resetLine).lastMark }
    resetLine := s.resetLine
    draws := s1.draws
    pending := s.pending }

end Sys2Proof.Machine
end

