-- ==== Sys2Proof/Machine/Codes.lean ====
section
/-!
DEFINITION. The numeric codes of every named value (chapter 10).
-/
namespace Sys2Proof.Machine

/-- Route state codes (R172's table of named values). -/
def RouteState.code : RouteState → Nat
  | .empty => 0
  | .closed => 1
  | .opened => 2
  | .draining => 3

/-- Shape codes. -/
def Shape.code : Shape → Nat
  | .write => 0
  | .read => 1
  | .exchange => 2
  | .commandRead => 3

/-- The shape a code names. -/
def Shape.ofCode : Nat → Option Shape
  | 0 => some .write
  | 1 => some .read
  | 2 => some .exchange
  | 3 => some .commandRead
  | _ => none

/-- Clock mode codes: idle level and capture edge. -/
def clockModeCode : Level → CaptureEdge → Nat
  | .low, .first => 0
  | .low, .second => 1
  | .high, .first => 2
  | .high, .second => 3

/-- The clock mode a code names. -/
def clockModeOf : Nat → Option (Level × CaptureEdge)
  | 0 => some (.low, .first)
  | 1 => some (.low, .second)
  | 2 => some (.high, .first)
  | 3 => some (.high, .second)
  | _ => none

/-- Ready wait codes. -/
def ReadyWait.code : ReadyWait → Nat
  | .none => 0
  | .beforeStart => 1

/-- The ready wait a code names. -/
def ReadyWait.ofCode : Nat → Option ReadyWait
  | 0 => some .none
  | 1 => some .beforeStart
  | _ => none

/-- Response policy codes. -/
def ResponsePolicy.code : ResponsePolicy → Nat
  | .always => 0
  | .errorsOnly => 1

/-- The response policy a code names. -/
def ResponsePolicy.ofCode : Nat → Option ResponsePolicy
  | 0 => some .always
  | 1 => some .errorsOnly
  | _ => none

/-- Slot state codes. -/
def SlotState.code : SlotState → Nat
  | .free => 0
  | .queued => 1
  | .active => 2
  | .done => 3

/-- Lane state codes. -/
def LaneState.code : LaneState → Nat
  | .off => 0
  | .idle => 1
  | .readyWait => 2
  | .shifting => 3
  | .gap => 4
  | .yielded => 5

/-- Flow mode codes. -/
def FlowMode.code : FlowMode → Nat
  | .off => 0
  | .holdOnly => 1
  | .holdRelease => 2

/-- The flow mode a code names. -/
def FlowMode.ofCode : Nat → Option FlowMode
  | 0 => some .off
  | 1 => some .holdOnly
  | 2 => some .holdRelease
  | _ => none

/-- Flow state codes. -/
def FlowState.code : FlowState → Nat
  | .clear => 0
  | .holding => 1

/-- Link state codes. -/
def LinkState.code : LinkState → Nat
  | .down => 0
  | .up => 1

/-- Transaction result codes of outcomes (10.3). -/
def TxOutcome.code : TxOutcome → Nat
  | .ok => 0
  | .contention => 1
  | .readyTimeout => 2
  | .cancelled => 3
  | .laneReset => 4
  | .laneOff => 5
  | .linkLost => 6

/-- Transaction result codes of refusals (10.3). -/
def RefusalReason.code : RefusalReason → Nat
  | .noRoute => 16
  | .routeClosed => 17
  | .routeDraining => 18
  | .sourceDenied => 19
  | .badShape => 20
  | .badLength => 21
  | .tooLong => 22
  | .duplicate => 23
  | .noSlot => 24
  | .laneOff => 5
  | .laneFull => 25
  | .noCells => 26

/-- Transaction result codes of CANCEL_ACK (10.3). -/
def AckResult.code : AckResult → Nat
  | .badLength => 21
  | .tooLate => 32
  | .unknown => 33

/-- Management result codes (10.3). -/
def MgmtResult.code : MgmtResult → Nat
  | .done => 0
  | .locked => 1
  | .notHolder => 2
  | .wrongSource => 3
  | .badOperation => 4
  | .badLength => 5
  | .badIndex => 6
  | .badValue => 7
  | .badEntry => 8
  | .labelInUse => 9
  | .wrongState => 10

/-- Frame kind codes (10.1): the outbound kinds. -/
def kindResponse : Nat := 8
/-- The code of CANCEL_ACK. -/
def kindCancelAck : Nat := 9
/-- The code of MGMT_RESPONSE. -/
def kindMgmtResponse : Nat := 10
/-- The code of EVENT. -/
def kindEvent : Nat := 11
/-- The code of REQUEST. -/
def kindRequest : Nat := 1
/-- The code of CANCEL. -/
def kindCancel : Nat := 2
/-- The code of MGMT. -/
def kindMgmt : Nat := 3
/-- The code of HOLD, inbound and outbound. -/
def kindHold : Nat := 4

end Sys2Proof.Machine
end

