-- ==== Sys2Proof/Machine/Operands.lean ====
section
/-!
DEFINITION. The byte layouts: reading a frame taken whole (R112, R169), building an outbound frame (R115, R116), and the operands and
records of the management operations (R171, R173, 10.5).
-/
namespace Sys2Proof.Machine

/-! ### Reading a frame -/

/-- The label entries up to and including the first with the bottom flag, at most `n` of them (R112, R169). -/
def stackEntries : Nat → List Byte → Option (List Nat)
  | 0, _ => none
  | n + 1, a :: b :: rest =>
    let e := a.toNat * 256 + b.toNat
    if e.testBit 3 then some [e] else (stackEntries n rest).map (e :: ·)
  | _ + 1, _ => none

/-- The label of an entry (10.1). -/
def entryLabel (e : Nat) : Nat := e / 16

/-- Kinds whose frames are addressed to the bridge itself (R112). -/
def isBridgeKind (kind : Nat) : Bool := kind == kindCancel || kind == kindMgmt || kind == kindHold

/-- Read the header, the stack and the body of a frame of `count` bytes, of which the first 1044 are stored: none when the frame
is malformed (R112). -/
def parseFrame (count : Nat) (bs : List Byte) : Option InFrame :=
  let kind := byteAt bs 0 / 16
  let version := byteAt bs 0 % 16
  let bodyLen := fieldAt bs 4 2
  match stackEntries 3 (bs.drop 6) with
  | none => none
  | some es =>
    let labels := es.map entryLabel
    let outer := labels.headD 0
    if count < 12 ∨ version ≠ 1 ∨ byteAt bs 1 % 4 ≠ 0 ∨ es.any (fun e => e % 8 != 0) ∨ 4095 ∈ labels
        ∨ count ≠ 6 + 2 * labels.length + bodyLen + 4 ∨ (outer = 0 ∧ ¬ isBridgeKind kind) ∨ (isBridgeKind kind ∧ outer ≠ 0)
    then none
    else some
      { kind := kind
        source := Fin.ofNat 64 (byteAt bs 1 / 4)
        sequence := BitVec.ofNat 16 (fieldAt bs 2 2)
        labels := labels
        body := (bs.drop (6 + 2 * labels.length)).take bodyLen }

/-! ### Building a frame -/

/-- The label entries of an outbound frame: the bottom flag on the last one alone (R115). -/
def labelBytes : List Nat → List Byte
  | [] => []
  | [l] => beBytes 2 (l * 16 + 8)
  | l :: ls => beBytes 2 (l * 16) ++ labelBytes ls

/-- The bytes of an outbound frame before its CRC: version 1, zero spare bits (R115, R169). -/
def frameBytes (kind : Nat) (source : Source) (sequence : BitVec 16) (labels : List Nat) (body : List Byte) : List Byte :=
  [BitVec.ofNat 8 (kind * 16 + 1), BitVec.ofNat 8 (source.val * 4)]
    ++ beBytes 2 sequence.toNat ++ beBytes 2 body.length ++ labelBytes labels ++ body

/-- An outbound frame with its CRC (R115, R170). -/
def buildFrame (kind : Nat) (source : Source) (sequence : BitVec 16) (labels : List Nat) (body : List Byte) : List Byte :=
  let bs := frameBytes kind source sequence labels body
  bs ++ crcBytes (crc32 bs)

/-- The read words of a DONE slot as its RESPONSE carries them: those of outcome OK only, each in its word bytes (R55). -/
def responseWords (s : State) (t : Slot) : List Byte :=
  if t.outcome = some .ok then loadBytes t.readCells (t.readCount * t.wordBytes) s.mem else []

/-- The RESPONSE frame of a DONE slot (R55, R116). -/
def slotResponse (s : State) (t : Slot) : List Byte :=
  let count := if t.outcome = some .ok then t.readCount else 0
  let code := (t.outcome.map TxOutcome.code).getD 0
  buildFrame kindResponse t.source t.sequence t.responseStack
    ([BitVec.ofNat 8 code, BitVec.ofNat 8 t.attempts] ++ beBytes 2 count ++ responseWords s t)

/-- The frame of a short-response record: a RESPONSE for a refusal, or a CANCEL_ACK (R36, R44, R116). -/
def recordFrame (r : ShortRecord) : List Byte :=
  match r.kind with
  | .refusal reason => buildFrame kindResponse r.source r.sequence r.stack [BitVec.ofNat 8 reason.code, 0, 0, 0]
  | .cancelAck result => buildFrame kindCancelAck r.source r.sequence r.stack [BitVec.ofNat 8 result.code, 0, 0, 0]

/-- The MGMT_RESPONSE frame of the response buffer (R116). -/
def mgmtFrame (r : MgmtResponse) : List Byte :=
  buildFrame kindMgmtResponse r.source r.sequence r.stack ([r.op, BitVec.ofNat 8 r.result.code, 0, 0] ++ r.fields)

/-- The outbound HOLD frame of a pending request (R98, R116). -/
def holdFrame (h : HoldRequest) : List Byte :=
  buildFrame kindHold h.destination.source 0 h.destination.stack
    (beBytes 2 h.holdTime ++ [h.lanes, boolByte h.poolFlag])

/-- The EVENT frame, from the contents of the Event Unit as they stand (R164, R116). -/
def eventFrame (number : BitVec 8) (d : Destination) (e : EventUnit) : List Byte :=
  buildFrame kindEvent d.source 0 d.stack
    ([number] ++ beBytes 2 e.setMembers.toNat ++ [e.contentionSet, e.timeoutSet, BitVec.ofNat 8 e.drained.length]
      ++ e.drained.map fun r => BitVec.ofNat 8 r.val)

/-! ### Destinations -/

/-- Whether the labels of a destination are in range: 1 to 3 of them, the first 1 to 4094, each later one 0 to 4094 (R100, R171). -/
def stackInRange : List Nat → Bool
  | [] => false
  | l :: ls => 1 ≤ l && l ≤ 4094 && ls.all (· ≤ 4094) && ls.length ≤ 2

/-- Read a destination of eight bytes (R171): source 255 is none and the rest is not read; a source above 63, a label count other
than 1 to 3 or a label out of range is refused, the outer `none`. -/
def readDestination (bs : List Byte) : Option (Option Destination) :=
  let source := byteAt bs 0
  let count := byteAt bs 1
  if source = 255 then some none
  else if source > 63 ∨ count = 0 ∨ count > 3 then none
  else
    let stack := (List.range count).map fun k => fieldAt bs (2 + 2 * k) 2
    if stackInRange stack then some (some { source := Fin.ofNat 64 source, stack := stack }) else none

/-- A destination as eight bytes: label slots beyond the count are 0, and none is source 255 with every other byte 0 (R171). -/
def destinationBytes : Option Destination → List Byte
  | none => [255, 0, 0, 0, 0, 0, 0, 0]
  | some d =>
    [BitVec.ofNat 8 d.source.val, BitVec.ofNat 8 d.stack.length]
      ++ (List.range 3).flatMap fun k => beBytes 2 (d.stack.getD k 0)

/-! ### The configuration block of a route entry -/

/-- A field that may be absent: 255 for absent (R171). -/
def counterSetOf (n : Nat) : Option (Option SetId) :=
  if n = 255 then some none else if h : n < 32 then some (some ⟨n, h⟩) else none

/-- Read a configuration block of 34 bytes (10.5): none when a field holds a code that names no value, a lane above 7, a select bit
above line 3 or a counter set above 31 that is not NONE, all of them BAD_ENTRY (R11, R171). -/
def readConfig (bs : List Byte) : Option RouteConfig := do
  let shape ← Shape.ofCode (byteAt bs 4)
  let mode ← clockModeOf (byteAt bs 8)
  let ready ← ReadyWait.ofCode (byteAt bs 18)
  let policy ← ResponsePolicy.ofCode (byteAt bs 22)
  let set ← counterSetOf (byteAt bs 33)
  if byteAt bs 2 > 7 ∨ byteAt bs 3 > 15 then none
  else some {
      label := fieldAt bs 0 2
      lane := Fin.ofNat 8 (byteAt bs 2)
      selects := BitVec.ofNat 4 (byteAt bs 3)
      shape := shape
      wordSize := byteAt bs 5
      clockDivisor := fieldAt bs 6 2
      idleLevel := mode.1
      captureEdge := mode.2
      sampleDelay := byteAt bs 9
      fillWord := BitVec.ofNat 32 (fieldAt bs 10 4)
      maxWrite := fieldAt bs 14 2
      maxRead := fieldAt bs 16 2
      readyWait := ready
      readyTimeout := fieldAt bs 19 2
      retryLimit := byteAt bs 21
      responsePolicy := policy
      replyLabel := fieldAt bs 23 2
      permitted := BitVec.ofNat 64 (fieldAt bs 25 8)
      counterSet := set }

/-- Whether a select set names more than one line: a broadcast route (R2). -/
def isBroadcast (selects : BitVec 4) : Bool := 1 < ((List.finRange 4).filter fun k => selects.getLsbD k).length

/-- The entry checks of R11 that judge the values of the fields: true when every one passes. -/
def entryOk (g : RouteConfig) : Bool :=
  (1 ≤ g.label && g.label ≤ 4094)
  && g.selects != 0
  && !(isBroadcast g.selects && g.shape != .write)
  && (4 ≤ g.wordSize && g.wordSize ≤ 32)
  && (g.clockDivisor % 2 == 0 && 2 ≤ g.clockDivisor && g.clockDivisor ≤ 65534)
  && g.sampleDelay ≤ 3
  && (g.maxWrite ≤ 256 && g.maxRead ≤ 256)
  && (match g.shape with
      | .write => g.maxRead == 0
      | .read => g.maxWrite == 0 && g.maxRead != 0
      | .exchange => g.maxWrite == g.maxRead && g.maxWrite != 0
      | .commandRead => g.maxWrite != 0 && g.maxRead != 0)
  && !(g.responsePolicy == .errorsOnly && g.shape != .write)
  && !(g.readyWait == .beforeStart && g.readyTimeout == 0)
  && g.retryLimit ≤ 3
  && (1 ≤ g.replyLabel && g.replyLabel ≤ 4094)

/-- The configuration block of an entry as it is read (10.5). -/
def configBytes (g : RouteConfig) : List Byte :=
  beBytes 2 g.label
    ++ [BitVec.ofNat 8 g.lane.val, g.selects.setWidth 8, BitVec.ofNat 8 g.shape.code, BitVec.ofNat 8 g.wordSize]
    ++ beBytes 2 g.clockDivisor
    ++ [BitVec.ofNat 8 (clockModeCode g.idleLevel g.captureEdge), BitVec.ofNat 8 g.sampleDelay]
    ++ beBytes 4 g.fillWord.toNat ++ beBytes 2 g.maxWrite ++ beBytes 2 g.maxRead
    ++ [BitVec.ofNat 8 g.readyWait.code] ++ beBytes 2 g.readyTimeout
    ++ [BitVec.ofNat 8 g.retryLimit, BitVec.ofNat 8 g.responsePolicy.code]
    ++ beBytes 2 g.replyLabel ++ beBytes 8 g.permitted.toNat
    ++ [(g.counterSet.map fun k => BitVec.ofNat 8 k.val).getD 255]

/-! ### Reply fields -/

/-- A route record of 38 bytes (10.5). -/
def routeRecord (s : State) (r : RouteId) : List Byte :=
  let e := s.route r
  [BitVec.ofNat 8 r.val, BitVec.ofNat 8 e.state.code, BitVec.ofNat 8 e.inUse, 0] ++ configBytes e.config

/-- The reply of OPEN_ROUTE, DRAIN_ROUTE and DELETE_ROUTE: index, state, in-use count (R173). -/
def routeReply (s : State) (r : RouteId) : List Byte :=
  [BitVec.ofNat 8 r.val, BitVec.ofNat 8 (s.route r).state.code, BitVec.ofNat 8 (s.route r).inUse]

/-- The reply of SET_LANE and RESET_LANE: the lane's settings, state and occupancy (R173). -/
def laneReply (s : State) (l : LaneId) : List Byte :=
  let e := s.lane l
  [BitVec.ofNat 8 l.val, boolByte e.enabled, boolByte e.claimWatch, BitVec.ofNat 8 e.gap,
    BitVec.ofNat 8 e.state.code, BitVec.ofNat 8 (s.occupancy l)]

/-- The current slot of a lane, 255 for absent (R171). -/
def currentByte (e : LaneEngine) : Byte := (e.current.map fun i => BitVec.ofNat 8 i.val).getD 255

/-- A transaction record of 12 bytes (10.5). -/
def transactionRecord (s : State) (i : SlotId) : List Byte :=
  let t := s.slot i
  [BitVec.ofNat 8 i.val, BitVec.ofNat 8 t.state.code, BitVec.ofNat 8 t.source.val] ++ beBytes 2 t.sequence.toNat
    ++ [BitVec.ofNat 8 t.route.val, BitVec.ofNat 8 t.lane.val, BitVec.ofNat 8 t.attempts, boolByte t.orphan, 0, 0, 0]

/-- The slots other than FREE ones, in ascending order of index (R142). -/
def liveSlots (s : State) : List SlotId := (List.finRange 64).filter fun i => (s.slot i).live

/-- A counter record: 5 bytes a counter (10.5). -/
def counterRecord (cs : List Counter) : List Byte := cs.flatMap fun c => beBytes 5 c.toNat

/-- The flow settings block of 19 bytes (10.4). -/
def flowBlock (g : FlowSettings) : List Byte :=
  [BitVec.ofNat 8 g.mode.code] ++ beBytes 2 g.poolHold ++ beBytes 2 g.poolRelease
    ++ [BitVec.ofNat 8 g.laneHold, BitVec.ofNat 8 g.laneRelease]
    ++ beBytes 2 g.holdTime ++ beBytes 2 g.refreshInterval ++ destinationBytes g.destination

/-- The reply of SET_FLOW: flow state, pool flag, held lane set (R173). -/
def flowReply (f : FlowController) : List Byte :=
  [BitVec.ofNat 8 f.state.code, boolByte f.poolFlag, f.heldLanes]

/-- Read a flow settings block and judge its ranges (R100): none is BAD_VALUE. -/
def readFlowBlock (bs : List Byte) : Option FlowSettings := do
  let mode ← FlowMode.ofCode (byteAt bs 0)
  let dest ← readDestination (bs.drop 11)
  let g : FlowSettings :=
    { mode := mode
      poolHold := fieldAt bs 1 2
      poolRelease := fieldAt bs 3 2
      laneHold := byteAt bs 5
      laneRelease := byteAt bs 6
      holdTime := fieldAt bs 7 2
      refreshInterval := fieldAt bs 9 2
      destination := dest }
  if g.poolHold ≤ 1023 ∧ g.poolHold < g.poolRelease ∧ g.poolRelease ≤ 1024 ∧ 1 ≤ g.laneHold ∧ g.laneHold ≤ 16
      ∧ g.laneRelease < g.laneHold ∧ g.holdTime ≠ 0 ∧ g.refreshInterval ≠ 0 then some g else none

/-- The lock holder, 255 for absent (R171). -/
def holderByte (a : Agent) : Byte := (a.holder.map fun h => BitVec.ofNat 8 h.val).getD 255

/-- The remaining lease in whole milliseconds, rounded up (R136). -/
def leaseMillis (a : Agent) : Nat := (a.remaining + 999) / 1000

/-- The three device settings as stored (R135). -/
def settingsBytes (a : Agent) : List Byte := beBytes 2 a.maxFrame ++ beBytes 2 a.replyLabel ++ [boolByte a.react]

/-- The device record of 26 bytes (R136, R173). -/
def deviceRecord (s : State) : List Byte :=
  beBytes 2 4817 ++ beBytes 2 810 ++ [1, 8, 4, 128, 64] ++ beBytes 2 1024 ++ [32, 16, 4]
    ++ [BitVec.ofNat 8 s.receiver.link.code] ++ beBytes 2 s.freeCells ++ [BitVec.ofNat 8 s.flow.state.code]
    ++ [holderByte s.agent] ++ beBytes 2 (leaseMillis s.agent) ++ settingsBytes s.agent

/-- The mask, event destination and repeat interval as stored (R173). -/
def eventSettingsBytes (e : EventUnit) : List Byte :=
  beBytes 2 e.mask.toNat ++ destinationBytes e.destination ++ beBytes 2 e.repeatInterval

end Sys2Proof.Machine
end

