-- ==== Sys2Proof/Machine/Admission.lean ====
section
/-!
DEFINITION. The Admission Unit: REQUEST and CANCEL.
-/
namespace Sys2Proof.Machine

/-- A request as Admission reads it: the entry its label found and its counts. -/
structure Demand where
  route      : RouteId
  writeCount : Nat
  readCount  : Nat
  slot       : SlotId
  deriving DecidableEq, Repr

/-- Whether the counts fit the shape (R28). -/
def fitsShape : Shape → Nat → Nat → Bool
  | .write, _, r => r == 0
  | .read, w, r => w == 0 && 1 ≤ r
  | .exchange, w, r => r == w && 1 ≤ r
  | .commandRead, w, r => 1 ≤ w && 1 ≤ r

/-- The cells a transaction needs (R34). -/
def cellsNeeded (wb w r : Nat) : Nat := cellsFor (w * wb) + cellsFor (r * wb)

/-- The checks from the second onward, in their order, of a request whose label found entry `k` (R24, R26 to R34). -/
def judgeEntry (f : InFrame) (k : RouteId) (s : State) : Except RefusalReason Demand :=
  let e := s.route k
  let g := e.config
  let w := fieldAt f.body 0 2
  let r := fieldAt f.body 2 2
  let wb := wordBytes g.wordSize
  if e.state = .draining then .error .routeDraining
  else if e.state ≠ .opened then .error .routeClosed
  else if ¬ g.permitted.getLsbD f.source then .error .sourceDenied
  else if f.body.length < 4 then .error .badLength
  else if ¬ fitsShape g.shape w r then .error .badShape
  else if f.body.length ≠ 4 + w * wb then .error .badLength
  else if g.maxWrite < w ∨ g.maxRead < r then .error .tooLong
  else if (findPair f.source f.sequence s).isSome then .error .duplicate
  else match lowestFree s with
    | none => .error .noSlot
    | some i =>
      if (s.lane g.lane).state = .off then .error .laneOff
      else if 16 ≤ s.occupancy g.lane then .error .laneFull
      else if s.freeCells < cellsNeeded wb w r then .error .noCells
      else .ok { route := k, writeCount := w, readCount := r, slot := i }

/-- The cells that no slot has reserved (R91). -/
def freeCellList (s : State) : List Nat :=
  (List.range 1024).filter fun c => (List.finRange 64).all fun i => c ∉ (s.slot i).cells

/-- The slot that an admission makes (R37). -/
def admittedSlot (f : InFrame) (d : Demand) (cells : List Nat) (g : RouteConfig) : Slot where
  state          := .queued
  source         := f.source
  sequence       := f.sequence
  route          := d.route
  lane           := g.lane
  shape          := g.shape
  wordBytes      := wordBytes g.wordSize
  writeCount     := d.writeCount
  readCount      := d.readCount
  cells          := cells
  attempts       := 0
  outcome        := none
  orphan         := false
  responseStack  := g.replyLabel :: f.labels.tail
  responseWanted := g.responsePolicy == .always

/-- Admission of a request that passed every check (R37, R38): the slot QUEUED, the cells reserved, the write words stored, the in-use
count and ADMITTED raised, the slot at the tail of its lane's queue, and the new counts judged by the Flow Controller. -/
def admitRequest (f : InFrame) (d : Demand) (s : State) : State :=
  let e := s.route d.route
  let g := e.config
  let need := cellsNeeded (wordBytes g.wordSize) d.writeCount d.readCount
  let cells := pickCells need s.draws (freeCellList s)
  let t := admittedSlot f d cells g
  let s1 := bumpSet g.counterSet .admitted 1
    { s with
      freeCells := s.freeCells - need
      draws := s.draws + need
      mem := storeBytes t.writeCells 0 (f.body.drop 4) s.mem
      routes := s.routes.set d.route { e with inUse := e.inUse + 1 }
      slots := s.slots.set d.slot t
      queues := s.queues.set g.lane (s.queue g.lane ++ [d.slot]) }
  judgeFlow s1

/-- The refusal record of a request (R36). -/
def refusalRecord (f : InFrame) (reason : RefusalReason) (s : State) : ShortRecord where
  kind     := .refusal reason
  source   := f.source
  sequence := f.sequence
  stack    := replyStack s f.labels

/-- Judge a request (R24): NO_ROUTE is counted in the device, every other refusal in the set of the entry found (R35). -/
def judgeRequest (f : InFrame) (s : State) : State :=
  match lookup (f.labels.headD 0) s with
  | none => addRecord (refusalRecord f .noRoute s) (bumpDevice .noRouteRefusals 1 s)
  | some k =>
    match judgeEntry f k s with
    | .error reason =>
      addRecord (refusalRecord f reason s) (bumpSet (s.route k).config.counterSet .refused 1 s)
    | .ok d => admitRequest f d s

/-- Take the frame at the head of the admission list, when it is of the kind asked for (R23). -/
def takeWaiting (isCancel : Bool) (s : State) : Option (WaitingFrame × State) :=
  match s.receiver.admission with
  | w :: rest =>
    if w.isCancel = isCancel then some (w, { s with receiver := { s.receiver with admission := rest } }) else none
  | [] => none

/-- REQUEST (R23, R24): the frame at the head of the admission list is judged, or discarded where the link went down while it waited.
With no REQUEST at the head the event does not arise (log 10). -/
def execRequest (s : State) : Host.Outcome State Fault Refusal :=
  .next (match takeWaiting false s with
    | none => s
    | some (w, s1) => if w.lost then s1 else judgeRequest w.frame s1)

/-- The CANCEL_ACK record of a CANCEL (R44). -/
def ackRecord (f : InFrame) (result : AckResult) (s : State) : ShortRecord where
  kind     := .cancelAck result
  source   := f.source
  sequence := f.sequence
  stack    := replyStack s f.labels

/-- Withdraw a QUEUED slot (R41): it leaves its lane's queue at whatever place, its response is wanted, and CANCELLED is decided. -/
def withdrawSlot (i : SlotId) (s : State) : State :=
  let t := s.slot i
  judgeFlow (decideOutcome i .cancelled
    ((s.setSlot i { t with responseWanted := true }).setQueue t.lane ((s.queue t.lane).erase i)))

/-- Judge a CANCEL (R40 to R43). -/
def judgeCancel (f : InFrame) (s : State) : State :=
  if f.body.length ≠ 0 then addRecord (ackRecord f .badLength s) s
  else match findPair f.source f.sequence s with
    | none => addRecord (ackRecord f .unknown s) s
    | some i =>
      if (s.slot i).state = .queued then withdrawSlot i s
      else addRecord (ackRecord f .tooLate s) s

/-- CANCEL (R23, R40): the frame at the head of the admission list is judged, or discarded where the link went down while it waited.
With no CANCEL at the head the event does not arise (log 10). -/
def execCancel (s : State) : Host.Outcome State Fault Refusal :=
  .next (match takeWaiting true s with
    | none => s
    | some (w, s1) => if w.lost then s1 else judgeCancel w.frame s1)

/-! ### The order of taking -/

/-- Admission takes a frame whole, REQUEST or CANCEL, or discards it where the link went down while it waited (R23). -/
def judgeWaiting (w : WaitingFrame) (s : State) : State :=
  if w.lost then s else if w.isCancel then judgeCancel w.frame s else judgeRequest w.frame s

/-- Admission takes the frame at the head of the admission list, whatever its kind (R23). -/
def admitNext (s : State) : State :=
  match s.receiver.admission with
  | [] => s
  | w :: rest => judgeWaiting w { s with receiver := { s.receiver with admission := rest } }

/-- Admission takes every frame that waits, in arrival order (R23): it has taken each before the next is taken whole. -/
def admitAll (s : State) : State := s.receiver.admission.foldl (fun t _ => admitNext t) s

end Sys2Proof.Machine
end

