-- ==== Sys2Proof/Machine/Lane.lean ====
section
/-!
DEFINITION. The lane engines' own events: LANE_START_ATTEMPT, READY_ASSERT, READY_TIMER_EXPIRY, END_OF_LAST_WORD, GAP_TIMER_EXPIRY,
CLAIM_ASSERT, CLAIM_RELEASE.
-/
namespace Sys2Proof.Machine

/-- The engine as an attempt of a route begins (R68): in READY_WAIT with the ready timer started, or in SHIFTING with the route's
selects asserted. -/
def LaneEngine.start (e : LaneEngine) (i : SlotId) (g : RouteConfig) (ready : Bool) : LaneEngine :=
  let e1 := { e with current := some i, clockLevel := g.idleLevel, readyIn := ready }
  if g.readyWait = .beforeStart ∧ ready = false then
    { e1 with state := .readyWait, readyTimer := some g.readyTimeout }
  else { e1 with state := .shifting, selectsOut := g.selects }

/-- The lane may begin an attempt: IDLE, a slot waiting, no watched claim (R68). -/
def canStart (l : LaneId) (s : State) : Bool :=
  (s.lane l).state == .idle && !(s.queue l).isEmpty && !(s.lane l).claimed

/-- LANE_START_ATTEMPT (R68, R50): the slot at the head of the queue becomes ACTIVE and the lane's current slot, its attempts rise by 1,
and the attempt waits for ready or shifts. Elsewhere the event does not arise (log 10). -/
def execLaneStartAttempt (l : LaneId) (ready : Bool) (s : State) : Host.Outcome State Fault Refusal :=
  .next (if canStart l s then
    match s.queue l with
    | [] => s
    | i :: rest =>
      let t := s.slot i
      ((s.setSlot i { t with state := .active, attempts := t.attempts + 1 }).setQueue l rest).setLane l
        ((s.lane l).start i (s.slotRoute i) ready)
  else s)

/-- READY_ASSERT (R69): in READY_WAIT the ready timer stops, the route's selects are asserted and the lane enters SHIFTING. In any
other state it does nothing but stand at the input. -/
def execReadyAssert (l : LaneId) (s : State) : Host.Outcome State Fault Refusal :=
  let e := { s.lane l with readyIn := true }
  .next (match e.state, e.current with
    | .readyWait, some i =>
      s.setLane l { e with readyTimer := none, state := .shifting, selectsOut := (s.slotRoute i).selects }
    | _, _ => s.setLane l e)

/-- READY_TIMER_EXPIRY (R70): the attempt fails with READY_TIMEOUT, which is counted and sets its condition; the retry is decided
(R82) and the lane enters GAP (R77). With no ready timer running the expiry does not happen. -/
def execReadyTimerExpiry (l : LaneId) (s : State) : Host.Outcome State Fault Refusal :=
  let e := s.lane l
  .next (match e.state, e.current, e.readyTimer with
    | .readyWait, some i, some _ =>
      retryOrDecide l i .readyTimeout
        (setReadyTimeout l
          (bumpSet (s.slotRoute i).counterSet .readyTimeouts 1 (s.setLane l e.quit.enterGap)))
    | _, _, _ => s)

/-- END_OF_LAST_WORD (R76): the captured words stand in the read cells (R72), the selects are released, the slot is handed over with
outcome OK, and the lane enters GAP or, with gap 0, IDLE (R77). -/
def execEndOfLastWord (l : LaneId) (din : List Bool) (s : State) : Host.Outcome State Fault Refusal :=
  let e := s.lane l
  .next (match e.state, e.current with
    | .shifting, some i =>
      judgeFlow (decideOutcome i .ok
        ((storeCaptured i din (capturedWords (s.slot i)) s).setLane l e.quit.enterGap))
    | _, _ => s)

/-- GAP_TIMER_EXPIRY (R77): the lane enters IDLE, or YIELDED when a watched claim is held (R67). With no gap timer running the expiry
does not happen. -/
def execGapTimerExpiry (l : LaneId) (s : State) : Host.Outcome State Fault Refusal :=
  let e := s.lane l
  .next (match e.state, e.gapTimer with
    | .gap, some _ => s.setLane l { e with gapTimer := none }.enterIdle
    | _, _ => s)

/-- The words captured before a claim cuts an attempt short stay in the read cells (R79). -/
def captureUntilClaim (l : LaneId) (din : List Bool) (s : State) : State :=
  match (s.lane l).state, (s.lane l).current with
  | .shifting, some i => captureBefore i din s
  | _, _ => s

/-- CLAIM_ASSERT (R78, R79): with claim watch on, the claim acts on the lane by its state; an attempt in progress is aborted by
contention. With claim watch off it does nothing but stand at the input. -/
def execClaimAssert (l : LaneId) (din : List Bool) (s : State) : Host.Outcome State Fault Refusal :=
  let s1 := s.setLane l { s.lane l with claimIn := true }
  .next (if (s.lane l).claimWatch then claimActs l (captureUntilClaim l din s1) else s1)

/-- CLAIM_RELEASE (R80): in YIELDED the lane enters IDLE; in every other state it does nothing but stand at the input (R78). -/
def execClaimRelease (l : LaneId) (s : State) : Host.Outcome State Fault Refusal :=
  let e := { s.lane l with claimIn := false }
  .next (s.setLane l (if e.state = .yielded then e.enterIdle else e))

end Sys2Proof.Machine
end

