-- ==== Sys2Proof/Machine/Link.lean ====
section
/-!
DEFINITION. The resets by the pins and the link: POWER_ON, RESET_LINE_ASSERTED, SYNC_FOUND, SYNC_LOST, LINK_UP, LINK_DOWN.
-/
namespace Sys2Proof.Machine

/-- POWER_ON (R63, R88, R91, R102, R107, R117, R124, R149, R153, R160): every block takes its power-on values, and with the release
of the reset line idle characters begin (R123). -/
def execPowerOn (s : State) : Host.Outcome State Fault Refusal := .next (powerOn s)

/-- RESET_LINE_ASSERTED (R90, R123): every lane output goes to high impedance (`selectPin`, `clockPin`, `dataPin`), the transmit pair
is held at common mode and the Receiver is not in synchronisation. Nothing else of the state is said to change before the line
is released, which is POWER_ON (log 9). A frame in reception is abandoned with the synchronisation; no character of a frame being
sent follows, so neither a frame's end nor a grant arises until then. -/
def execResetLineAsserted (s : State) : Host.Outcome State Fault Refusal :=
  .next { s with
    resetLine := true
    receiver := { s.receiver with inSync := false, syncTimer := none, reception := none } }

/-- SYNC_FOUND (R108, R109): while the link is DOWN the measurement of synchronisation starts; while it is UP the loss timer stops.
Where the Receiver is in synchronisation already, or the reset line is asserted (R123), the event does not arise (log 10). -/
def execSyncFound (s : State) : Host.Outcome State Fault Refusal :=
  .next (if s.receiver.inSync ∨ s.resetLine then s else
    { s with receiver := { s.receiver with
        inSync := true
        syncTimer := if s.receiver.link = .down then some 0 else none } })

/-- SYNC_LOST (R108, R109, R110): a frame in reception is abandoned; while the link is UP the loss timer starts; while it is DOWN
the measurement ends and restarts from the next moment synchronisation is found. -/
def execSyncLost (s : State) : Host.Outcome State Fault Refusal :=
  .next (if s.receiver.inSync then
    { s with receiver := { s.receiver with
        inSync := false
        syncTimer := if s.receiver.link = .up then some 0 else none
        reception := none } }
  else s)

/-- The link-up event arises: the link is DOWN and synchronisation is being measured (R108). -/
def linkUpArises (s : State) : Bool :=
  s.receiver.link == .down && s.receiver.inSync && s.receiver.syncTimer.isSome

/-- LINK_UP (R108): the link becomes UP, LINK_RESTORED is set and judged, and the Flow Controller requests a HOLD frame when it stands
HOLDING (R101). Slots, lanes, routes and counters stand as they are. -/
def execLinkUp (s : State) : Host.Outcome State Fault Refusal :=
  .next (if linkUpArises s then
    flowLinkUp (setCondition .linkRestored
      { s with receiver := { s.receiver with link := .up, syncTimer := none } })
  else s)

/-- The link-down event arises: the link is UP and the loss of synchronisation is being timed (R109). -/
def linkDownArises (s : State) : Bool :=
  s.receiver.link == .up && !s.receiver.inSync && s.receiver.syncTimer.isSome

/-- The slots in a given state, in ascending order of index. -/
def slotsIn (st : SlotState) (s : State) : List SlotId := (List.finRange 64).filter fun i => (s.slot i).state == st

/-- The Transaction Table's part of link down (R60, R61): QUEUED slots have LINK_LOST decided and counted and are freed, DONE slots are
freed and counted in RESPONSES_DISCARDED, ACTIVE slots are marked orphan, and every queue is empty. -/
def tableLinkDown (s : State) : State :=
  let queued := slotsIn .queued s
  let done := slotsIn .done s
  let counted := bumpDevice .responsesDiscarded done.length (queued.foldl (fun t i => countOutcome i .linkLost t) s)
  freeSlots (queued ++ done)
    { counted with
      slots := counted.slots.map fun t => if t.state = .active then { t with orphan := true } else t
      queues := Vector.replicate 8 []
      completion := [] }

/-- The Receiver's part of link down: the link DOWN, no frame in reception, and every frame that waits for Admission to be discarded
when it is taken (R109, R23). -/
def receiverLinkDown (r : Receiver) : Receiver :=
  { r with
    link := .down
    syncTimer := none
    reception := none
    admission := r.admission.map fun w => { w with lost := true } }

/-- The Transmitter's part of link down (R121, R103). -/
def transmitterLinkDown (resetLine : Bool) (x : Transmitter) : Transmitter :=
  { x.cutOff resetLine with shortQueue := [], inboundHold := 0, lastServed := .completion }

/-- The agent's part of link down (R133, R132): the response buffer is emptied, the lock freed, the queue kept. -/
def agentLinkDown (a : Agent) : Agent :=
  { a with buffer := none, holder := none, lease := none, remaining := 0 }

/-- LINK_DOWN (R109): counted in LINK_DOWNS; the blocks act as the table of R109 gives, the Flow Controller after the Transaction Table
(R101); the Event Unit ends its event and every set condition becomes unreported (R167). The lane engines keep their states
(R89). -/
def execLinkDown (s : State) : Host.Outcome State Fault Refusal :=
  .next (if linkDownArises s then
    let s1 := tableLinkDown
      (bumpDevice .linkDowns 1
        { s with
          receiver := receiverLinkDown s.receiver
          trans := transmitterLinkDown s.resetLine s.trans
          agent := agentLinkDown s.agent })
    let s2 := flowLinkDown s1
    { s2 with events := s2.events.endEvent.unreport }
  else s)

end Sys2Proof.Machine
end

