-- ==== Sys2Proof/Machine/Serve.lean ====
section
/-!
DEFINITION. The serving of a management request, shared by every operation: taking it from the queue, the checks in their order, the
lease, and the response buffer (R126, R127, R128, R131).
-/
namespace Sys2Proof.Machine

/-- What an operation answers: its result, its reply fields, and the state it leaves. -/
structure OpReply where
  result : MgmtResult
  fields : List Byte
  state  : State

/-- An operation refused with a result that carries no reply fields: it changes nothing (R127). -/
def failWith (r : MgmtResult) (s : State) : OpReply := { result := r, fields := [], state := s }

/-- An operation executed (R127). -/
def doneWith (fields : List Byte) (s : State) : OpReply := { result := .done, fields := fields, state := s }

/-- The operation code of a body: its first byte, and 0 for an empty body (R127). -/
def opCode (body : List Byte) : Nat := byteAt body 0

/-- The third check (R128): the requester holds the lock, or the answer is NOT_HOLDER when the lock is free and LOCKED, with the
holder, when another source holds it. -/
def lockCheck (src : Source) (s : State) : Option OpReply :=
  match s.agent.holder with
  | none => some (failWith .notHolder s)
  | some h =>
    if h = src then none
    else some { result := .locked, fields := [BitVec.ofNat 8 h.val], state := s }

/-- An operation as the checks need it: its code, the exact length of its operands (R173), whether a request with given operands
requires the lock (R128), and its execution on the requester and the operands. -/
structure Operation where
  code      : Nat
  length    : Nat
  needsLock : List Byte → Bool
  run       : Source → List Byte → State → OpReply

/-- The checks of R127 in their order on a body, then the execution. -/
def judgeOperation (op : Operation) (src : Source) (body : List Byte) (s : State) : OpReply :=
  let operands := body.drop 4
  if body.length ≠ 4 + op.length then failWith .badLength s
  else if op.needsLock operands then
    match lockCheck src s with
    | some refusal => refusal
    | none => op.run src operands s
  else op.run src operands s

/-- A DONE from the holder on an operation that requires the lock restarts the remaining lease (R131). A DEVICE_RESET has freed the
lock by then (R148). -/
def restartLease (src : Source) (s : State) : State :=
  if s.agent.holder = some src then
    { s with agent := { s.agent with remaining := s.agent.lease.getD 0 * 1000 } }
  else s

/-- The MGMT_RESPONSE is placed in the response buffer (R126). -/
def placeResponse (r : MgmtResponse) (s : State) : State :=
  { s with agent := { s.agent with buffer := some r } }

/-- The response to a request: the code it carried, the reply stack formed when it was taken, its source and sequence (R126, R21). -/
def responseTo (q : MgmtRequest) (replyLabel : Nat) (a : OpReply) : MgmtResponse where
  op       := q.body.getD 0 0
  result   := a.result
  fields   := a.fields
  stack    := replyLabel :: q.labels
  source   := q.source
  sequence := q.sequence

/-- The state an operation leaves, with the lease restarted where R131 restarts it. -/
def afterLease (op : Operation) (q : MgmtRequest) (a : OpReply) : State :=
  if a.result = .done ∧ op.needsLock (q.body.drop 4) then restartLease q.source a.state else a.state

/-- The agent can take a request: its buffer is empty and its queue is not (R126). -/
def canTake (s : State) : Option (MgmtRequest × List MgmtRequest) :=
  match s.agent.buffer, s.agent.queue with
  | none, q :: rest => some (q, rest)
  | _, _ => none

/-- The event of one operation (R126, R127): the agent takes the request at the head of the queue, when it carries this operation's
code; where it does not, or nothing can be taken, the event does not arise (log 10). -/
def serve (op : Operation) (s : State) : State :=
  match canTake s with
  | none => s
  | some (q, rest) =>
    if opCode q.body = op.code then
      let s1 := { s with agent := { s.agent with queue := rest } }
      let a := judgeOperation op q.source q.body s1
      placeResponse (responseTo q s.agent.replyLabel a) (afterLease op q a)
    else s

/-- No request of an operation requires the lock (R128). -/
def noLock (_operands : List Byte) : Bool := false

/-- Every request of an operation requires the lock (R128). -/
def always (_operands : List Byte) : Bool := true

/-- A lane operand (R140, R141). -/
def laneOf (n : Nat) : Option LaneId := if h : n < 8 then some ⟨n, h⟩ else none

/-- A route index operand (R137 to R139). -/
def routeOf (n : Nat) : Option RouteId := if h : n < 128 then some ⟨n, h⟩ else none

end Sys2Proof.Machine
end

