-- ==== Sys2Proof/Machine/MgmtDevice.lean ====
section
/-!
DEFINITION. Management of the lock, the device settings and the device: LOCK, UNLOCK, READ_DEVICE, SET_DEVICE, DEVICE_RESET,
MGMT_BAD_OPERATION.
-/
namespace Sys2Proof.Machine

/-- The lock granted or renewed with a lease in milliseconds (R129). -/
def grantLock (src : Source) (lease : Nat) (s : State) : State :=
  { s with agent := { s.agent with holder := some src, lease := some lease, remaining := lease * 1000 } }

/-- LOCK on the requester and its operand (R129). -/
def runLock (src : Source) (operands : List Byte) (s : State) : OpReply :=
  let lease := fieldAt operands 0 2
  if lease < 100 ∨ 60000 < lease then failWith .badValue s
  else match s.agent.holder with
    | some h =>
      if h = src then doneWith ([BitVec.ofNat 8 src.val, 0] ++ beBytes 2 lease) (grantLock src lease s)
      else { result := .locked, fields := [BitVec.ofNat 8 h.val], state := s }
    | none => doneWith ([BitVec.ofNat 8 src.val, 0] ++ beBytes 2 lease) (grantLock src lease s)

/-- The LOCK operation. -/
def opLock : Operation := { code := 1, length := 2, needsLock := noLock, run := runLock }

/-- LOCK (R129). -/
def execLock (s : State) : Host.Outcome State Fault Refusal := .next (serve opLock s)

/-- UNLOCK (R130): the holder frees the lock; no condition is set. -/
def runUnlock (src : Source) (_operands : List Byte) (s : State) : OpReply :=
  if s.agent.holder = some src then
    doneWith [] { s with agent := { s.agent with holder := none, lease := none, remaining := 0 } }
  else failWith .notHolder s

/-- The UNLOCK operation. -/
def opUnlock : Operation := { code := 2, length := 0, needsLock := noLock, run := runUnlock }

/-- UNLOCK (R130). -/
def execUnlock (s : State) : Host.Outcome State Fault Refusal := .next (serve opUnlock s)

/-- The READ_DEVICE operation (R136). -/
def opReadDevice : Operation :=
  { code := 3, length := 0, needsLock := noLock, run := fun _ _ s => doneWith (deviceRecord s) s }

/-- READ_DEVICE (R136). -/
def execReadDevice (s : State) : Host.Outcome State Fault Refusal := .next (serve opReadDevice s)

/-- SET_DEVICE on its operands (R135): react going from on to off sets the inbound hold timer to 0. -/
def runSetDevice (_src : Source) (operands : List Byte) (s : State) : OpReply :=
  let maxFrame := fieldAt operands 0 2
  let label := fieldAt operands 2 2
  match boolOf (byteAt operands 4) with
  | none => failWith .badValue s
  | some react =>
    if maxFrame < 64 ∨ 1040 < maxFrame ∨ label < 1 ∨ 4094 < label then failWith .badValue s
    else
      let s1 := { s with
        agent := { s.agent with maxFrame := maxFrame, replyLabel := label, react := react }
        trans := { s.trans with inboundHold := if react then s.trans.inboundHold else 0 } }
      doneWith (settingsBytes s1.agent) s1

/-- The SET_DEVICE operation. -/
def opSetDevice : Operation := { code := 4, length := 5, needsLock := always, run := runSetDevice }

/-- SET_DEVICE (R135). -/
def execSetDevice (s : State) : Host.Outcome State Fault Refusal := .next (serve opSetDevice s)

/-- The DEVICE_RESET operation (R147, R148). -/
def opDeviceReset : Operation :=
  { code := 20, length := 0, needsLock := always, run := fun _ _ s => doneWith [] (deviceReset s) }

/-- DEVICE_RESET (R147, R148): its DONE response stands in the buffer after the reset, under the stack formed before it. -/
def execDeviceReset (s : State) : Host.Outcome State Fault Refusal := .next (serve opDeviceReset s)

/-- MGMT_BAD_OPERATION (R127): a request whose code is none of 1 to 20 is taken, answered BAD_OPERATION and changes nothing. -/
def execMgmtBadOperation (s : State) : Host.Outcome State Fault Refusal :=
  .next (match canTake s with
    | none => s
    | some (q, rest) =>
      if opCode q.body = 0 ∨ 20 < opCode q.body then
        let s1 := { s with agent := { s.agent with queue := rest } }
        placeResponse (responseTo q s.agent.replyLabel (failWith .badOperation s1)) s1
      else s)

end Sys2Proof.Machine
end

