-- ==== Sys2Proof/Machine/MgmtLanes.lean ====
section
/-!
DEFINITION. Management of the lanes: READ_LANE, SET_LANE, RESET_LANE.
-/
namespace Sys2Proof.Machine

/-- READ_LANE on its operand (R140). -/
def runReadLane (_src : Source) (operands : List Byte) (s : State) : OpReply :=
  match laneOf (byteAt operands 0) with
  | none => failWith .badIndex s
  | some l => doneWith (laneReply s l ++ [currentByte (s.lane l)]) s

/-- The READ_LANE operation. -/
def opReadLane : Operation := { code := 11, length := 1, needsLock := noLock, run := runReadLane }

/-- READ_LANE (R140). -/
def execReadLane (s : State) : Host.Outcome State Fault Refusal := .next (serve opReadLane s)

/-- A lane flush requested by the engine of lane `l`, with a stopped attempt's read cells left open (log 2), judged once by the
Flow Controller on the values the whole event leaves (R52, R96). -/
def stopAndFlush (l : LaneId) (o : TxOutcome) (e : LaneEngine) (s : State) : State :=
  judgeFlow (flushLane l o e (strayIfShifting l s))

/-- SET_LANE with enabled no (R85): an enabled lane is stopped, flushed with LANE_OFF and left OFF; a lane already OFF takes the two
other settings. -/
def disableLane (l : LaneId) (watch : Bool) (gap : Nat) (s : State) : State :=
  let e := s.lane l
  if e.enabled then
    stopAndFlush l .laneOff
      { e.quit with enabled := false, claimWatch := watch, gap := gap, state := .off, clockLevel := .low } s
  else s.setLane l { e with claimWatch := watch, gap := gap }

/-- SET_LANE with enabled yes (R86). -/
def enableLane (l : LaneId) (watch : Bool) (gap : Nat) (s : State) : State :=
  let e := s.lane l
  let e1 := { e with enabled := true, claimWatch := watch, gap := gap }
  if e.enabled = false then s.setLane l e1.enterIdle
  else if e.claimWatch = false ∧ watch = true ∧ e.claimIn = true then
    claimActs l ((strayIfShifting l s).setLane l e1)
  else if e.claimWatch = true ∧ watch = false ∧ e.state = .yielded then s.setLane l e1.enterIdle
  else s.setLane l e1

/-- SET_LANE on its operands (R141). -/
def runSetLane (_src : Source) (operands : List Byte) (s : State) : OpReply :=
  match laneOf (byteAt operands 0), boolOf (byteAt operands 1), boolOf (byteAt operands 2) with
  | none, _, _ => failWith .badIndex s
  | some l, some enabled, some watch =>
    let gap := byteAt operands 3
    let s1 := if enabled then enableLane l watch gap s else disableLane l watch gap s
    doneWith (laneReply s1 l) s1
  | _, _, _ => failWith .badValue s

/-- The SET_LANE operation. -/
def opSetLane : Operation := { code := 12, length := 4, needsLock := always, run := runSetLane }

/-- SET_LANE (R85, R86, R141). -/
def execSetLane (s : State) : Host.Outcome State Fault Refusal := .next (serve opSetLane s)

/-- RESET_LANE on a lane (R84): the attempt is stopped uncounted, the slots are flushed with LANE_RESET, and the lane enters IDLE, or
YIELDED under a held and watched claim; a lane that is OFF stays OFF. -/
def resetLaneEngine (l : LaneId) (s : State) : State :=
  if (s.lane l).state = .off then s
  else stopAndFlush l .laneReset (s.lane l).quit.enterIdle s

/-- RESET_LANE on its operand (R141). -/
def runResetLane (_src : Source) (operands : List Byte) (s : State) : OpReply :=
  match laneOf (byteAt operands 0) with
  | none => failWith .badIndex s
  | some l =>
    let s1 := resetLaneEngine l s
    doneWith (laneReply s1 l) s1

/-- The RESET_LANE operation. -/
def opResetLane : Operation := { code := 13, length := 1, needsLock := always, run := runResetLane }

/-- RESET_LANE (R84, R141). -/
def execResetLane (s : State) : Host.Outcome State Fault Refusal := .next (serve opResetLane s)

end Sys2Proof.Machine
end

