-- ==== Sys2Proof/Machine/MgmtRoutes.lean ====
section
/-!
DEFINITION. Management of the route table: READ_ROUTE, FIND_ROUTE, WRITE_ROUTE, OPEN_ROUTE, DRAIN_ROUTE, DELETE_ROUTE.
-/
namespace Sys2Proof.Machine

/-- READ_ROUTE on its operand (R137). -/
def runReadRoute (_src : Source) (operands : List Byte) (s : State) : OpReply :=
  match routeOf (byteAt operands 0) with
  | none => failWith .badIndex s
  | some r => doneWith (routeRecord s r) s

/-- The READ_ROUTE operation. -/
def opReadRoute : Operation := { code := 5, length := 1, needsLock := noLock, run := runReadRoute }

/-- READ_ROUTE (R137). -/
def execReadRoute (s : State) : Host.Outcome State Fault Refusal := .next (serve opReadRoute s)

/-- FIND_ROUTE on its operand (R137, R7). -/
def runFindRoute (_src : Source) (operands : List Byte) (s : State) : OpReply :=
  if 4095 < fieldAt operands 0 2 then failWith .badValue s
  else match lookup (fieldAt operands 0 2) s with
    | none => failWith .badIndex s
    | some r => doneWith (routeRecord s r) s

/-- The FIND_ROUTE operation. -/
def opFindRoute : Operation := { code := 6, length := 2, needsLock := noLock, run := runFindRoute }

/-- FIND_ROUTE (R137). -/
def execFindRoute (s : State) : Host.Outcome State Fault Refusal := .next (serve opFindRoute s)

/-- Another entry that is not EMPTY holds the label (R12). -/
def labelTaken (r : RouteId) (label : Nat) (s : State) : Bool :=
  (List.finRange 128).any fun k =>
    k != r && (s.route k).state != .empty && (s.route k).config.label == label

/-- WRITE_ROUTE on its operands, judged in the order of R10; it replaces the configuration and leaves the entry CLOSED (R13). -/
def runWriteRoute (_src : Source) (operands : List Byte) (s : State) : OpReply :=
  match routeOf (byteAt operands 0) with
  | none => failWith .badIndex s
  | some r =>
    match readConfig (operands.drop 2) with
    | none => failWith .badEntry s
    | some g =>
      if ¬ entryOk g then failWith .badEntry s
      else if (s.route r).state ≠ .empty ∧ (s.route r).state ≠ .closed then failWith .wrongState s
      else if labelTaken r g.label s then failWith .labelInUse s
      else
        let s1 := s.setRoute r { s.route r with config := g, state := .closed }
        doneWith [BitVec.ofNat 8 r.val, BitVec.ofNat 8 (s1.route r).state.code] s1

/-- The WRITE_ROUTE operation. -/
def opWriteRoute : Operation := { code := 7, length := 36, needsLock := always, run := runWriteRoute }

/-- WRITE_ROUTE (R10, R138). -/
def execWriteRoute (s : State) : Host.Outcome State Fault Refusal := .next (serve opWriteRoute s)

/-- An operation on the state of an entry (R139): an index above 127 is BAD_INDEX; then the change, or WRONG_STATE. -/
def runOnEntry (change : RouteId → State → Option State) (operands : List Byte) (s : State) : OpReply :=
  match routeOf (byteAt operands 0) with
  | none => failWith .badIndex s
  | some r =>
    match change r s with
    | none => failWith .wrongState s
    | some s1 => doneWith (routeReply s1 r) s1

/-- OPEN_ROUTE on an entry (R14): CLOSED becomes OPEN. -/
def openEntry (r : RouteId) (s : State) : Option State :=
  if (s.route r).state = .closed then some (s.setRoute r { s.route r with state := .opened }) else none

/-- The OPEN_ROUTE operation. -/
def opOpenRoute : Operation :=
  { code := 8, length := 1, needsLock := always, run := fun _ => runOnEntry openEntry }

/-- OPEN_ROUTE (R14, R139). -/
def execOpenRoute (s : State) : Host.Outcome State Fault Refusal := .next (serve opOpenRoute s)

/-- DRAIN_ROUTE on an entry (R14, R18): OPEN becomes CLOSED with a drain completion when no slot names it, DRAINING otherwise. -/
def drainEntry (r : RouteId) (s : State) : Option State :=
  if (s.route r).state = .opened then
    if (s.route r).inUse = 0 then some (setDrainDone r (s.setRoute r { s.route r with state := .closed }))
    else some (s.setRoute r { s.route r with state := .draining })
  else none

/-- The DRAIN_ROUTE operation. -/
def opDrainRoute : Operation :=
  { code := 9, length := 1, needsLock := always, run := fun _ => runOnEntry drainEntry }

/-- DRAIN_ROUTE (R14, R139). -/
def execDrainRoute (s : State) : Host.Outcome State Fault Refusal := .next (serve opDrainRoute s)

/-- DELETE_ROUTE on an entry (R14): CLOSED becomes EMPTY with every field at its power-on value. -/
def deleteEntry (r : RouteId) (s : State) : Option State :=
  if (s.route r).state = .closed then some (s.setRoute r .powerOn) else none

/-- The DELETE_ROUTE operation. -/
def opDeleteRoute : Operation :=
  { code := 10, length := 1, needsLock := always, run := fun _ => runOnEntry deleteEntry }

/-- DELETE_ROUTE (R14, R139). -/
def execDeleteRoute (s : State) : Host.Outcome State Fault Refusal := .next (serve opDeleteRoute s)

end Sys2Proof.Machine
end

