-- ==== Sys2Proof/Machine/MgmtTables.lean ====
section
/-!
DEFINITION. Management of the transaction table, the counters, the flow settings and the events: READ_TRANSACTIONS, READ_COUNTERS,
SET_FLOW, READ_FLOW, SET_EVENTS, ACK_EVENTS.
-/
namespace Sys2Proof.Machine

/-- The READ_TRANSACTIONS operation (R142). -/
def opReadTransactions : Operation where
  code      := 14
  length    := 0
  needsLock := noLock
  run       := fun _ _ s =>
    doneWith (BitVec.ofNat 8 (liveSlots s).length :: (liveSlots s).flatMap (transactionRecord s)) s

/-- READ_TRANSACTIONS (R142). -/
def execReadTransactions (s : State) : Host.Outcome State Fault Refusal := .next (serve opReadTransactions s)

/-- A target of READ_COUNTERS: a set, or DEVICE (R143). -/
inductive CounterTarget where
  | set (k : SetId)
  | device
  deriving DecidableEq, Repr

/-- The target an operand names; 255 is DEVICE (R171). -/
def targetOf (n : Nat) : Option CounterTarget :=
  if n = 255 then some .device else if h : n < 32 then some (.set ⟨n, h⟩) else none

/-- The copy of every counter of a target (R156). -/
def copyCounters (t : CounterTarget) (s : State) : List Byte :=
  match t with
  | .set k => counterRecord s.counters.sets[k].toList
  | .device => counterRecord s.counters.device.toList

/-- Zero every counter of a target (R157). -/
def clearCounters (t : CounterTarget) (s : State) : State :=
  match t with
  | .set k => { s with counters := { s.counters with sets := s.counters.sets.set k (Vector.replicate 15 0) } }
  | .device => { s with counters := { s.counters with device := Vector.replicate 14 0 } }

/-- READ_COUNTERS on its operands (R143, R156, R157). -/
def runReadCounters (_src : Source) (operands : List Byte) (s : State) : OpReply :=
  match targetOf (byteAt operands 0), boolOf (byteAt operands 1) with
  | none, _ => failWith .badIndex s
  | some _, none => failWith .badValue s
  | some t, some clear =>
    doneWith (operands.getD 0 0 :: copyCounters t s) (if clear then clearCounters t s else s)

/-- The READ_COUNTERS operation: any clear operand other than no asks for clearing and requires the lock (R128). -/
def opReadCounters : Operation where
  code      := 15
  length    := 2
  needsLock := fun operands => byteAt operands 1 != 0
  run       := runReadCounters

/-- READ_COUNTERS (R143, R156, R157). -/
def execReadCounters (s : State) : Host.Outcome State Fault Refusal := .next (serve opReadCounters s)

/-- The flow state after an accepted SET_FLOW, decided on the state before and the pressure now (R100). -/
def FlowController.decide (link : LinkState) (f : FlowController) : FlowController :=
  if f.settings.mode = .off then f.clear.withdrawHold
  else match f.state, f.pressure with
    | .clear, false => f
    | .clear, true => f.holdAnew link
    | .holding, true => f.holdAnew link
    | .holding, false => f.release link

/-- A new destination of none withdraws a pending request (R100). -/
def FlowController.withdrawUndirected (f : FlowController) : FlowController :=
  if f.settings.destination = none then f.withdrawHold else f

/-- An accepted SET_FLOW (R100): the settings stored, flag and set judged anew under the new levels, the state decided. -/
def applyFlow (g : FlowSettings) (s : State) : State :=
  let s1 := judgeLevels s.flow.poolFlag s.flow.heldLanes { s with flow := { s.flow with settings := g } }
  { s1 with flow := (s1.flow.decide s.receiver.link).withdrawUndirected }

/-- SET_FLOW on its operands (R100, R144). -/
def runSetFlow (_src : Source) (operands : List Byte) (s : State) : OpReply :=
  match readFlowBlock operands with
  | none => failWith .badValue s
  | some g =>
    let s1 := applyFlow g s
    doneWith (flowReply s1.flow) s1

/-- The SET_FLOW operation. -/
def opSetFlow : Operation := { code := 16, length := 19, needsLock := always, run := runSetFlow }

/-- SET_FLOW (R100, R144). -/
def execSetFlow (s : State) : Host.Outcome State Fault Refusal := .next (serve opSetFlow s)

/-- The READ_FLOW operation (R144). -/
def opReadFlow : Operation where
  code      := 17
  length    := 0
  needsLock := noLock
  run       := fun _ _ s =>
    doneWith (flowBlock s.flow.settings ++ flowReply s.flow ++ beBytes 2 s.freeCells ++ beBytes 2 s.trans.inboundHold) s

/-- READ_FLOW (R144). -/
def execReadFlow (s : State) : Host.Outcome State Fault Refusal := .next (serve opReadFlow s)

/-- The frame of the outstanding event is still being sent (R165). -/
def eventFrameOnOutput (s : State) : Bool :=
  match s.trans.output, s.events.outstanding with
  | some f, some n => f.requester == .event n
  | _, _ => false

/-- What a SET_EVENTS does to the event in progress, the new settings stored: `old` is the destination before, `sending` tells whether
the frame of the outstanding event is still being sent (R165). -/
def EventUnit.resettle (old : Option Destination) (sending : Bool) (e : EventUnit) : EventUnit :=
  if e.destination ≠ old then e.endEvent.unreport
  else match e.state with
    | .quiet => e
    | .outstanding => if sending then e else e.startRepeat
    | .requested => if e.hasNews then e else { e with state := .quiet, request := false }

/-- An accepted SET_EVENTS (R165). -/
def applyEvents (mask : BitVec 9) (dest : Option Destination) (interval : Nat) (s : State) : State :=
  { s with events :=
      (EventUnit.resettle s.events.destination (eventFrameOnOutput s)
        { s.events with mask := mask, destination := dest, repeatInterval := interval }).judge s.receiver.link }

/-- SET_EVENTS on its operands (R145). -/
def runSetEvents (_src : Source) (operands : List Byte) (s : State) : OpReply :=
  if 511 < fieldAt operands 0 2 then failWith .badValue s
  else match readDestination (operands.drop 2) with
    | none => failWith .badValue s
    | some dest =>
      let s1 := applyEvents (BitVec.ofNat 9 (fieldAt operands 0 2)) dest (fieldAt operands 10 2) s
      doneWith (eventSettingsBytes s1.events) s1

/-- The SET_EVENTS operation. -/
def opSetEvents : Operation := { code := 18, length := 12, needsLock := always, run := runSetEvents }

/-- SET_EVENTS (R145, R165). -/
def execSetEvents (s : State) : Host.Outcome State Fault Refusal := .next (serve opSetEvents s)

/-- A condition an acknowledgement names is cleared when it is set and reported (R166). -/
def ackClears (named : BitVec 9) (e : EventUnit) (c : Condition) : Bool :=
  named.getLsbD c.index && e.cond c == .reported

/-- The conditions, lane sets and drained list after an acknowledgement (R166). -/
def acknowledge (named : BitVec 9) (e : EventUnit) : EventUnit :=
  { e with
    conditions := Vector.ofFn fun i =>
      if named.getLsbD i && e.conditions[i] == .reported then .clear else e.conditions[i]
    contentionSet := if ackClears named e .laneContention then 0 else e.contentionSet
    timeoutSet := if ackClears named e .readyTimeout then 0 else e.timeoutSet
    drained := if ackClears named e .drainDone then [] else e.drained }

/-- ACK_EVENTS on the requester and its operands: the checks in the order of R146, then the effect of R166. -/
def runAckEvents (src : Source) (operands : List Byte) (s : State) : OpReply :=
  if 511 < fieldAt operands 2 2 then failWith .badValue s
  else match s.events.destination with
    | none => failWith .wrongSource s
    | some d =>
      if d.source ≠ src then failWith .wrongSource s
      else if s.events.outstanding ≠ some (BitVec.ofNat 8 (byteAt operands 0)) then failWith .badValue s
      else
        let e := (acknowledge (BitVec.ofNat 9 (fieldAt operands 2 2)) s.events).endEvent
        doneWith (beBytes 2 e.setMembers.toNat) (judgeEvent { s with events := e })

/-- The ACK_EVENTS operation. -/
def opAckEvents : Operation := { code := 19, length := 4, needsLock := noLock, run := runAckEvents }

/-- ACK_EVENTS (R146, R166). -/
def execAckEvents (s : State) : Host.Outcome State Fault Refusal := .next (serve opAckEvents s)

end Sys2Proof.Machine
end

