-- ==== Sys2Proof/Machine/Receive.lean ====
section
/-!
DEFINITION. Receiving a frame: START_DELIMITER, FRAME_ABANDONED, FRAME_TAKEN_WHOLE.
-/
namespace Sys2Proof.Machine

/-- A reception before its first byte (R110). -/
def Reception.start : Reception := { crc := crcStart, tail := [], count := 0, stored := [] }

/-- One byte arrives: it is counted, stored when it is among the first 1044, and the byte that is no longer one of the last four
enters the CRC (R110, R170). -/
def Reception.byte (r : Reception) (b : Byte) : Reception :=
  { crc := if r.tail.length < 4 then r.crc else crcByte r.crc (r.tail.headD 0)
    tail := if r.tail.length < 4 then r.tail ++ [b] else r.tail.tail ++ [b]
    count := r.count + 1
    stored := if r.count < 1044 then r.stored ++ [b] else r.stored }

/-- Whether the CRC check passes: at least four bytes, and the last four are the CRC of those before them (R111, R170). -/
def Reception.crcOk (r : Reception) : Bool := 4 ≤ r.count && r.tail == crcBytes (~~~ r.crc)

/-- Begin a frame (R110). -/
def beginFrame (s : State) : State :=
  { s with receiver := { s.receiver with reception := some .start } }

/-- START_DELIMITER (R110): while the link is UP the Receiver begins a frame. With one in reception already, this is the second start
delimiter, which abandons that frame and begins its own. While the link is DOWN nothing is taken (R108), nor while the reset line
is asserted (R123). In a break of synchronisation with the link still UP the rules name no start delimiter; the model begins no frame
then, since a frame sent during such a break is lost without an answer (6.1, programming note). DEDUCED, log 24. -/
def execStartDelimiter (s : State) : Host.Outcome State Fault Refusal :=
  .next (if s.receiver.link = .up ∧ s.receiver.inSync = true ∧ s.resetLine = false then beginFrame s else s)

/-- FRAME_ABANDONED (R110): a frame in reception is discarded, not checked and not counted; a second start delimiter is itself the
start of a new frame. With no frame in reception nothing happens. -/
def execFrameAbandoned (cause : AbandonCause) (s : State) : Host.Outcome State Fault Refusal :=
  .next (match s.receiver.reception with
    | none => s
    | some _ =>
      match cause with
      | .secondStart => beginFrame s
      | .invalidCharacter => { s with receiver := { s.receiver with reception := none } }
      | .abortDelimiter => { s with receiver := { s.receiver with reception := none } })

/-- A frame joins the tail of the admission list (R23). -/
def joinAdmission (f : InFrame) (isCancel : Bool) (s : State) : State :=
  { s with receiver := { s.receiver with
      admission := s.receiver.admission ++ [{ frame := f, isCancel := isCancel, lost := false }] } }

/-- A MGMT frame arrives at the agent: it joins the management queue, or is dropped when that holds 4 (R125). -/
def mgmtArrival (f : InFrame) (s : State) : State :=
  if s.agent.queue.length < 4 then
    { s with agent := { s.agent with
        queue := s.agent.queue ++
          [{ source := f.source, sequence := f.sequence, labels := f.labels.tail, body := f.body }] } }
  else setCondition .mgmtLoss (bumpDevice .mgmtDropped 1 s)

/-- An inbound HOLD reaches the inbound hold timer (R103). -/
def inboundHoldArrival (f : InFrame) (s : State) : State :=
  if f.body.length = 4 then
    let s1 := bumpDevice .holdsReceived 1 s
    if s.agent.react then { s1 with trans := { s1.trans with inboundHold := fieldAt f.body 0 2 } } else s1
  else s

/-- A frame that passed every check is dispatched by its kind (R114). -/
def dispatch (f : InFrame) (s : State) : State :=
  if f.kind = kindRequest then joinAdmission f false s
  else if f.kind = kindCancel then joinAdmission f true s
  else if f.kind = kindMgmt then mgmtArrival f s
  else inboundHoldArrival f s

/-- A frame longer than this is oversize (R113). -/
def frameLimit (maxFrame labels : Nat) : Nat := maxFrame + 2 * (labels - 1)

/-- The four receive checks in their order; the first that fails drops the frame (R111). -/
def judgeReception (r : Reception) (s : State) : State :=
  if ¬ r.crcOk then setCondition .receiveError (bumpDevice .crcErrors 1 s)
  else match parseFrame r.count r.stored with
    | none => setCondition .receiveError (bumpDevice .malformed 1 s)
    | some f =>
      if r.count > frameLimit s.agent.maxFrame f.labels.length then
        setCondition .receiveError (bumpDevice .oversize 1 s)
      else if f.kind < 1 ∨ 4 < f.kind then bumpDevice .unknownKind 1 s
      else dispatch f (bumpDevice .framesReceived 1 s)

/-- The frame in reception leaves it, to be judged (R110). -/
def endReception (s : State) : State := { s with receiver := { s.receiver with reception := none } }

/-- FRAME_TAKEN_WHOLE (R110, R111): the bytes that arrived enter the frame in reception one by one, and at its end delimiter the frame
is judged. An end delimiter with no frame begun is ignored. Admission takes each frame before the Receiver takes the next frame whole
(R23): where one still waits, its taking comes first (log 13). -/
def execFrameTakenWhole (bytes : List Byte) (s : State) : Host.Outcome State Fault Refusal :=
  .next (match s.receiver.reception with
    | none => s
    | some r => judgeReception (bytes.foldl Reception.byte r) (endReception (admitAll s)))

end Sys2Proof.Machine
end

