-- ==== Sys2Proof/Machine/Timers.lean ====
section
/-!
DEFINITION. The expiries of the device's timers: REFRESH_TIMER_EXPIRY, INBOUND_HOLD_EXPIRY, LEASE_EXPIRY, REPEAT_TIMER_EXPIRY. A command
of this file says that the running timer has reached 0 (log 11); a timer that is stopped has no expiry.
-/
namespace Sys2Proof.Machine

/-- REFRESH_TIMER_EXPIRY (R97, R99): in HOLDING a HOLD frame with the current contents is requested and the timer restarts. -/
def execRefreshTimerExpiry (s : State) : Host.Outcome State Fault Refusal :=
  .next (match s.flow.refreshTimer, s.flow.state with
    | some _, .holding => { s with flow := (s.flow.requestHold s.receiver.link).startRefresh s.receiver.link }
    | _, _ => s)

/-- INBOUND_HOLD_EXPIRY (R103): the hold ends, and the two answer queues may be granted again (R104). -/
def execInboundHoldExpiry (s : State) : Host.Outcome State Fault Refusal :=
  .next { s with trans := { s.trans with inboundHold := 0 } }

/-- LEASE_EXPIRY (R131): the lock becomes free and LOCK_EXPIRED is set. With the lock free no lease runs. -/
def execLeaseExpiry (s : State) : Host.Outcome State Fault Refusal :=
  .next (if s.agent.holder.isSome then
    setCondition .lockExpired
      { s with agent := { s.agent with holder := none, lease := none, remaining := 0 } }
  else s)

/-- REPEAT_TIMER_EXPIRY (R164): while the event is outstanding a repeat is requested. -/
def execRepeatTimerExpiry (s : State) : Host.Outcome State Fault Refusal :=
  .next (match s.events.repeatTimer, s.events.state with
    | some _, .outstanding => { s with events := { s.events with repeatTimer := none, request := true } }
    | _, _ => s)

end Sys2Proof.Machine
end

