-- ==== Sys2Proof/Machine/Transmit.lean ====
section
/-!
DEFINITION. The trunk output: OUTPUT_GRANT and FRAME_END.
-/
namespace Sys2Proof.Machine

/-- The output is free: the link is UP and no frame is being sent (R118). While the reset line is asserted no character is sent
(R123). -/
def outputFree (s : State) : Bool :=
  s.receiver.link == .up && s.trans.output.isNone && !s.resetLine

/-- Which of the requesters an OUTPUT_GRANT serves (R118). -/
inductive Choice where
  | hold
  | mgmt
  | event
  | short
  | completion
  deriving DecidableEq, Repr

/-- The choice between the two answer queues: none while the inbound hold timer runs (R104); the one that alone waits; of two, the
one the last-served mark does not name (R119). -/
def chooseQueue (s : State) : Option Choice :=
  if s.trans.inboundHold ≠ 0 then none
  else match s.trans.shortQueue, s.completion, s.trans.lastServed with
    | [], [], _ => none
    | _ :: _, [], _ => some .short
    | [], _ :: _, _ => some .completion
    | _ :: _, _ :: _, .completion => some .short
    | _ :: _, _ :: _, .short => some .completion

/-- The first requester in the arbiter's order that is waiting and may be granted (R118). -/
def chooseRequester (s : State) : Option Choice :=
  if s.flow.pendingHold.isSome then some .hold
  else if s.agent.buffer.isSome then some .mgmt
  else if s.events.request ∧ s.events.destination.isSome then some .event
  else chooseQueue s

/-- A frame begins on the output (R118). -/
def beginSending (q : Requester) (bytes : List Byte) (s : State) : State :=
  { s with trans := { s.trans with output := some { requester := q, bytes := bytes }, lastMark := .start } }

/-- The Event Unit at the grant of its request (R164): a new event takes the next number, a repeat keeps its own; every set
condition becomes reported; the request ceases to be pending. The repeat interval is measured from the end of this frame, so a
timer that an earlier SET_EVENTS started stops (log 18). -/
def grantEvent (d : Destination) (s : State) : State :=
  let e := s.events
  let number := if e.state = .outstanding then e.outstanding.getD 0 else e.nextNumber
  let next := if e.state = .outstanding then e.nextNumber else e.nextNumber + 1
  beginSending (.event number) (eventFrame number d e)
    { s with events := { e.report with
        state := .outstanding, outstanding := some number, nextNumber := next, request := false, repeatTimer := none } }

/-- The frame of the granted requester begins (R115, R116, R118). -/
def grant (c : Choice) (s : State) : State :=
  match c with
  | .hold =>
    match s.flow.pendingHold with
    | none => s
    | some h => beginSending .hold (holdFrame h) { s with flow := { s.flow with pendingHold := none } }
  | .mgmt =>
    match s.agent.buffer with
    | none => s
    | some r => beginSending .mgmt (mgmtFrame r) s
  | .event =>
    match s.events.destination with
    | none => s
    | some d => grantEvent d s
  | .short =>
    match s.trans.shortQueue with
    | [] => s
    | r :: _ => beginSending .record (recordFrame r) { s with trans := { s.trans with lastServed := .short } }
  | .completion =>
    match s.completion with
    | [] => s
    | i :: _ =>
      beginSending (.slot i) (slotResponse s (s.slot i)) { s with trans := { s.trans with lastServed := .completion } }

/-- OUTPUT_GRANT (R118, R119): with the output free, the first waiting requester that may be granted gets it and its frame begins.
Where the output is not free, or no requester may be granted, no grant is made. -/
def execOutputGrant (s : State) : Host.Outcome State Fault Refusal :=
  .next (if outputFree s then
    match chooseRequester s with
    | none => s
    | some c => grant c s
  else s)

/-- The requester of a frame that has ended is completed (R120). -/
def completeRequester (q : Requester) (s : State) : State :=
  match q with
  | .hold => bumpDevice .holdsSent 1 s
  | .mgmt => { s with agent := { s.agent with buffer := none } }
  | .event n =>
    let s1 := bumpDevice .eventsSent 1 s
    let e := s1.events
    if e.state = .outstanding ∧ e.outstanding = some n then { s1 with events := e.startRepeat } else s1
  | .record => { s with trans := { s.trans with shortQueue := s.trans.shortQueue.tail } }
  | .slot i => judgeFlow (freeSlots [i] { s with completion := s.completion.erase i })

/-- FRAME_END (R120): the last byte of the frame has been sent; FRAMES_SENT counts it, and its requester is completed. With no frame
being sent, or the reset line asserted (R123), the event does not arise (log 10). -/
def execFrameEnd (s : State) : Host.Outcome State Fault Refusal :=
  .next (match s.trans.output with
    | none => s
    | some f =>
      if s.resetLine then s
      else completeRequester f.requester
        (bumpDevice .framesSent 1 { s with trans := { s.trans with output := none, lastMark := .stop } }))

end Sys2Proof.Machine
end

