-- ==== Sys2Proof/Machine/Dispatch.lean ====
section
/-!
DEFINITION. The meaning of every command: one arm for each row of spec/opcode_table.json.
-/
namespace Sys2Proof.Machine

def exec (i : Instr) (s : State) : Host.Outcome State Fault Refusal :=
  match i with
  | .powerOn => Sys2Proof.Machine.execPowerOn s
  | .resetLineAsserted => Sys2Proof.Machine.execResetLineAsserted s
  | .syncFound => Sys2Proof.Machine.execSyncFound s
  | .syncLost => Sys2Proof.Machine.execSyncLost s
  | .linkUp => Sys2Proof.Machine.execLinkUp s
  | .linkDown => Sys2Proof.Machine.execLinkDown s
  | .frameAbandoned cause => Sys2Proof.Machine.execFrameAbandoned cause s
  | .frameTakenWhole bytes => Sys2Proof.Machine.execFrameTakenWhole bytes s
  | .request => Sys2Proof.Machine.execRequest s
  | .cancel => Sys2Proof.Machine.execCancel s
  | .laneStartAttempt lane ready => Sys2Proof.Machine.execLaneStartAttempt lane ready s
  | .readyAssert lane => Sys2Proof.Machine.execReadyAssert lane s
  | .readyTimerExpiry lane => Sys2Proof.Machine.execReadyTimerExpiry lane s
  | .endOfLastWord lane din => Sys2Proof.Machine.execEndOfLastWord lane din s
  | .gapTimerExpiry lane => Sys2Proof.Machine.execGapTimerExpiry lane s
  | .claimAssert lane din => Sys2Proof.Machine.execClaimAssert lane din s
  | .claimRelease lane => Sys2Proof.Machine.execClaimRelease lane s
  | .refreshTimerExpiry => Sys2Proof.Machine.execRefreshTimerExpiry s
  | .inboundHoldExpiry => Sys2Proof.Machine.execInboundHoldExpiry s
  | .leaseExpiry => Sys2Proof.Machine.execLeaseExpiry s
  | .repeatTimerExpiry => Sys2Proof.Machine.execRepeatTimerExpiry s
  | .outputGrant => Sys2Proof.Machine.execOutputGrant s
  | .frameEnd => Sys2Proof.Machine.execFrameEnd s
  | .lock => Sys2Proof.Machine.execLock s
  | .unlock => Sys2Proof.Machine.execUnlock s
  | .readDevice => Sys2Proof.Machine.execReadDevice s
  | .setDevice => Sys2Proof.Machine.execSetDevice s
  | .readRoute => Sys2Proof.Machine.execReadRoute s
  | .findRoute => Sys2Proof.Machine.execFindRoute s
  | .writeRoute => Sys2Proof.Machine.execWriteRoute s
  | .openRoute => Sys2Proof.Machine.execOpenRoute s
  | .drainRoute => Sys2Proof.Machine.execDrainRoute s
  | .deleteRoute => Sys2Proof.Machine.execDeleteRoute s
  | .readLane => Sys2Proof.Machine.execReadLane s
  | .setLane => Sys2Proof.Machine.execSetLane s
  | .resetLane => Sys2Proof.Machine.execResetLane s
  | .readTransactions => Sys2Proof.Machine.execReadTransactions s
  | .readCounters => Sys2Proof.Machine.execReadCounters s
  | .setFlow => Sys2Proof.Machine.execSetFlow s
  | .readFlow => Sys2Proof.Machine.execReadFlow s
  | .setEvents => Sys2Proof.Machine.execSetEvents s
  | .ackEvents => Sys2Proof.Machine.execAckEvents s
  | .deviceReset => Sys2Proof.Machine.execDeviceReset s
  | .mgmtBadOperation => Sys2Proof.Machine.execMgmtBadOperation s
  | .startDelimiter => Sys2Proof.Machine.execStartDelimiter s

end Sys2Proof.Machine
end

