-- ==== Sys2Proof/Machine/TimeBase.lean ====
section
/-!
DEFINITION. What the bridge does while no command waits: the events it brings about by itself (an attempt begun, a grant made, a frame
or a request taken), and one microsecond of the Time Base where there is none. The choice of the order is the model's (log 12).
-/
namespace Sys2Proof.Machine

/-- The command that a management request's code stands for (10.4). -/
def mgmtCommand : Nat → Instr
  | 1 => .lock
  | 2 => .unlock
  | 3 => .readDevice
  | 4 => .setDevice
  | 5 => .readRoute
  | 6 => .findRoute
  | 7 => .writeRoute
  | 8 => .openRoute
  | 9 => .drainRoute
  | 10 => .deleteRoute
  | 11 => .readLane
  | 12 => .setLane
  | 13 => .resetLane
  | 14 => .readTransactions
  | 15 => .readCounters
  | 16 => .setFlow
  | 17 => .readFlow
  | 18 => .setEvents
  | 19 => .ackEvents
  | 20 => .deviceReset
  | _ => .mgmtBadOperation

/-- The event of Admission that follows a dispatch (R23). -/
def admissionEvent (s : State) : Option Instr :=
  s.receiver.admission.head?.map fun w => if w.isCancel then .cancel else .request

/-- The event of the agent when its buffer is empty and its queue is not (R126). -/
def agentEvent (s : State) : Option Instr := (canTake s).map fun q => mgmtCommand (opCode q.1.body)

/-- The start that follows an entry into IDLE or an admission (R67), on the lane with the lowest number that may begin. -/
def laneEvent (s : State) : Option Instr :=
  ((List.finRange 8).find? fun l => canStart l s).map fun l => .laneStartAttempt l (s.lane l).readyIn

/-- The grant that is made whenever the output is free and a requester that may be granted waits (R118). -/
def grantEventDue (s : State) : Option Instr :=
  if outputFree s ∧ (chooseRequester s).isSome then some .outputGrant else none

/-- The next event the bridge brings about by itself. -/
def nextInternal (s : State) : Option Instr :=
  admissionEvent s <|> agentEvent s <|> laneEvent s <|> grantEventDue s

/-- A timer counts down one microsecond; in its last one it stands until its expiry is taken. -/
def countDown (t : Option Nat) : Option Nat := t.map fun n => if n ≤ 1 then n else n - 1

/-- A timer in its last microsecond expires. -/
def expiring (t : Option Nat) (c : Instr) : List Instr :=
  match t with
  | some n => if n ≤ 1 then [c] else []
  | none => []

/-- The inbound hold timer and the remaining lease as timers: they run while above 0 (R103, R131). -/
def running (n : Nat) : Option Nat := if n = 0 then none else some n

/-- The link-state criterion that the synchronisation timer reaches in this microsecond: 1 ms held while the link is DOWN, 100 µs lost
while it is UP (R108, R109). -/
def linkEvents (r : Receiver) : List Instr :=
  match r.syncTimer with
  | none => []
  | some n =>
    match r.link with
    | .down => if 999 ≤ n then [.linkUp] else []
    | .up => if 99 ≤ n then [.linkDown] else []

/-- The expiries that one microsecond brings, in the order the model takes them (log 12). -/
def expiries (s : State) : List Instr :=
  (List.finRange 8).flatMap (fun l =>
      expiring (s.lane l).readyTimer (.readyTimerExpiry l) ++ expiring (s.lane l).gapTimer (.gapTimerExpiry l))
    ++ expiring s.flow.refreshTimer .refreshTimerExpiry
    ++ expiring (running s.trans.inboundHold) .inboundHoldExpiry
    ++ expiring (running s.agent.remaining) .leaseExpiry
    ++ expiring s.events.repeatTimer .repeatTimerExpiry
    ++ linkEvents s.receiver

/-- One microsecond of the Time Base: every running timer counts, and those that reach 0 put their expiry in the queue. -/
def tick (s : State) : State :=
  { s with
    timeBase := s.timeBase + 1
    lanes := s.lanes.map fun e => { e with readyTimer := countDown e.readyTimer, gapTimer := countDown e.gapTimer }
    flow := { s.flow with refreshTimer := countDown s.flow.refreshTimer }
    trans := { s.trans with inboundHold := (countDown (running s.trans.inboundHold)).getD 0 }
    agent := { s.agent with remaining := (countDown (running s.agent.remaining)).getD 0 }
    events := { s.events with repeatTimer := countDown s.events.repeatTimer }
    receiver := { s.receiver with syncTimer := s.receiver.syncTimer.map (· + 1) }
    pending := s.pending ++ expiries s }

/-- What stands in place of a command while none waits: the next event the bridge brings about by itself enters the queue, or one
microsecond passes. -/
def idle (s : State) : State :=
  match nextInternal s with
  | some c => { s with pending := s.pending ++ [c] }
  | none => tick s

end Sys2Proof.Machine
end

