-- ==== Sys2Proof/Safety.lean ====
section
/-!
DEFINITION. What it means that the bridge is in good order: the laws the spec states of its state, each a predicate that every step is
claimed to keep, and the tables of the spec that the statements speak of.
-/
namespace Sys2Proof.Safety

open Sys2Proof.Machine

/-! ### Laws of the state -/

/-- The cell memory has its canonical form. -/
abbrev MemLaw (s : State) : Prop := s.mem.wf

/-- The law of label uniqueness: every non-EMPTY entry's label lies in 1 to 4094, and no two of them carry the same (R8). -/
abbrev LabelLaw (s : State) : Prop :=
  (∀ r, (s.route r).state ≠ .empty → 1 ≤ (s.route r).config.label ∧ (s.route r).config.label ≤ 4094) ∧
  ∀ r q, (s.route r).state ≠ .empty → (s.route q).state ≠ .empty →
    (s.route r).config.label = (s.route q).config.label → r = q

/-- The law of one lane engine (R65, R66, R67, R78): it is OFF exactly while disabled; it has a current slot exactly in READY_WAIT and
SHIFTING; each timer runs exactly in its state; selects are asserted in SHIFTING alone; it is YIELDED exactly when it is enabled
under a held and watched claim; in OFF the clock level is LOW. -/
abbrev EngineLaw (e : LaneEngine) : Prop :=
  (e.enabled = false ↔ e.state = .off) ∧
  (e.current.isSome = true ↔ e.state = .readyWait ∨ e.state = .shifting) ∧
  (e.readyTimer.isSome = true ↔ e.state = .readyWait) ∧
  (e.gapTimer.isSome = true ↔ e.state = .gap) ∧
  (e.state ≠ .shifting → e.selectsOut = 0) ∧
  (e.state = .yielded ↔ e.enabled = true ∧ e.claimed = true) ∧
  (e.state = .off → e.clockLevel = .low)

/-- The law of the lane engines. -/
abbrev LaneLaw (s : State) : Prop := ∀ l, EngineLaw (s.lane l)

/-- The law of the management lock, the agent's queue and settings, and the inbound hold (R103, R124, R134). -/
abbrev AgentLaw (s : State) : Prop :=
  (s.agent.holder = none ↔ s.agent.lease = none) ∧
  (s.agent.lease = none → s.agent.remaining = 0) ∧
  (∀ m ∈ s.agent.lease, 100 ≤ m ∧ m ≤ 60000 ∧ 1 ≤ s.agent.remaining ∧ s.agent.remaining ≤ m * 1000) ∧
  s.agent.queue.length ≤ 4 ∧
  s.trans.shortQueue.length ≤ 16 ∧
  (64 ≤ s.agent.maxFrame ∧ s.agent.maxFrame ≤ 1040) ∧
  (1 ≤ s.agent.replyLabel ∧ s.agent.replyLabel ≤ 4094) ∧
  s.trans.inboundHold ≤ 65535 ∧
  (s.agent.react = false → s.trans.inboundHold = 0)

/-- The law of the Event Unit (R160, R163, R167): an outstanding number exactly in OUTSTANDING, a pending request in no QUIET state, a
repeat timer in OUTSTANDING alone; without a destination or with the link DOWN no event is in progress; and no unmasked unreported
condition is left without an event while one could be requested. -/
abbrev EventLaw (s : State) : Prop :=
  (s.events.outstanding.isSome = true ↔ s.events.state = .outstanding) ∧
  (s.events.state = .quiet → s.events.request = false) ∧
  (s.events.state = .requested → s.events.request = true) ∧
  (s.events.state ≠ .outstanding → s.events.repeatTimer = none) ∧
  (s.events.destination = none → s.events.state = .quiet) ∧
  (s.receiver.link = .down → s.events.state = .quiet) ∧
  s.events.drained.Nodup ∧
  (s.events.state = .quiet → s.events.destination.isSome = true → s.receiver.link = .up → s.events.hasNews = false)

/-- The slot whose RESPONSE is being sent (R57). -/
def sendingSlot (s : State) : Option SlotId :=
  match s.trans.output with
  | some f =>
    match f.requester with
    | .slot i => some i
    | _ => none
  | none => none

/-- The law of the trunk port: while the link is DOWN no frame is sent and none is in reception (R109), the admission list holds at most
one frame (R23), and a frame being sent for a slot is that of the head of the completion queue (R57). -/
abbrev OutputLaw (s : State) : Prop :=
  (s.receiver.link = .down → s.trans.output = none ∧ s.receiver.reception = none) ∧
  s.receiver.admission.length ≤ 1 ∧
  ∀ i, sendingSlot s = some i → s.completion.head? = some i

/-- The ranges of the flow settings (R95, R100). -/
abbrev FlowRanges (g : FlowSettings) : Prop :=
  g.poolHold ≤ 1023 ∧ g.poolHold < g.poolRelease ∧ g.poolRelease ≤ 1024 ∧
  g.laneRelease < g.laneHold ∧ g.laneHold ≤ 16 ∧ 1 ≤ g.holdTime ∧ 1 ≤ g.refreshInterval

/-- The law of the Flow Controller (R96 to R101): the flag and the set agree with their levels; while the mode is not OFF the state is
HOLDING exactly when the pressure stands; a refresh timer runs in HOLDING with the link UP only, and a request is pending with a
destination, the link UP and the mode not OFF only. -/
abbrev FlowLaw (s : State) : Prop :=
  FlowRanges s.flow.settings ∧
  (s.flow.poolFlag = false → s.flow.settings.poolHold < s.freeCells) ∧
  (s.flow.poolFlag = true → s.freeCells < s.flow.settings.poolRelease) ∧
  (∀ l : LaneId, s.flow.heldLanes.getLsbD l = false → s.occupancy l < s.flow.settings.laneHold) ∧
  (∀ l : LaneId, s.flow.heldLanes.getLsbD l = true → s.flow.settings.laneRelease < s.occupancy l) ∧
  (s.flow.settings.mode = .off → s.flow.state = .clear) ∧
  (s.flow.settings.mode ≠ .off → (s.flow.state = .holding ↔ s.flow.pressure = true)) ∧
  (s.flow.refreshTimer.isSome = true → s.flow.state = .holding ∧ s.receiver.link = .up) ∧
  (s.flow.pendingHold.isSome = true →
    s.flow.settings.destination.isSome = true ∧ s.receiver.link = .up ∧ s.flow.settings.mode ≠ .off)

/-- How many slots other than FREE ones name route `r` (R5). -/
def liveNaming (s : State) (r : RouteId) : Nat :=
  ((List.finRange 64).filter fun i => (s.slot i).live && (s.slot i).route == r).length

/-- Every cell that some slot has reserved, with repetitions (R91). -/
def reservedCells (s : State) : List Nat := (List.finRange 64).flatMap fun i => (s.slot i).cells

/-- The law of the slots and their collections (R46, R47, R48, R53, R56, R61, R66): a FREE slot has the FREE values; the queues hold the
QUEUED slots of their lanes, once each; the current slots are the ACTIVE ones; the completion queue holds the DONE ones, once each; an
outcome is present in DONE alone; an orphan is ACTIVE. -/
abbrev SlotLaw (s : State) : Prop :=
  (∀ i, (s.slot i).state = .free → s.slot i = Slot.freed) ∧
  (∀ l, (s.queue l).Nodup) ∧
  (∀ l i, i ∈ s.queue l ↔ (s.slot i).state = .queued ∧ (s.slot i).lane = l) ∧
  (∀ l i, (s.lane l).current = some i ↔ (s.slot i).state = .active ∧ (s.slot i).lane = l) ∧
  s.completion.Nodup ∧
  (∀ i, i ∈ s.completion ↔ (s.slot i).state = .done) ∧
  (∀ i, (s.slot i).outcome.isSome = true ↔ (s.slot i).state = .done) ∧
  (∀ i, (s.slot i).orphan = true → (s.slot i).state = .active)

/-- The law of the cell pool (R91, R34): the free count and the reserved cells make 1024; each reserved cell is one of the 1024 and
reserved to exactly one slot; a slot has the number of cells its words need. -/
abbrev PoolLaw (s : State) : Prop :=
  s.freeCells + (reservedCells s).length = 1024 ∧
  (reservedCells s).Nodup ∧
  (∀ c ∈ reservedCells s, c < 1024) ∧
  (∀ i, (s.slot i).cells.length = cellsNeeded (s.slot i).wordBytes (s.slot i).writeCount (s.slot i).readCount)

/-- The law of the in-use count (R5, R18): it is the number of the slots that name the entry; an entry that slots name is OPEN or
DRAINING, and a DRAINING entry is named by at least one. -/
abbrev InUseLaw (s : State) : Prop :=
  (∀ r, (s.route r).inUse = liveNaming s r) ∧
  (∀ r, 0 < (s.route r).inUse → (s.route r).state = .opened ∨ (s.route r).state = .draining) ∧
  (∀ r, (s.route r).state = .draining → 0 < (s.route r).inUse)

/-- The limits on slots: no lane's occupancy exceeds 16 and no slot is on a lane that is OFF (R33, R85); no two slots other than FREE
ones share source and sequence (R31); a slot's lane is that of its route (R46); attempts stay within the route's limit (R82). -/
abbrev LimitLaw (s : State) : Prop :=
  (∀ l, s.occupancy l ≤ 16) ∧
  (∀ l, (s.lane l).state = .off → s.queue l = []) ∧
  (∀ i j, (s.slot i).live = true → (s.slot j).live = true → (s.slot i).source = (s.slot j).source →
    (s.slot i).sequence = (s.slot j).sequence → i = j) ∧
  (∀ i, (s.slot i).live = true → (s.slot i).lane = (s.slotRoute i).lane) ∧
  (∀ i, (s.slot i).state = .queued → (s.slot i).attempts ≤ (s.slotRoute i).retryLimit) ∧
  (∀ i, (s.slot i).live = true → (s.slot i).attempts ≤ (s.slotRoute i).retryLimit + 1)

/-- The law of the transaction table: slots, queues, lanes, routes and the pool agree. -/
abbrev TableLaw (s : State) : Prop := SlotLaw s ∧ PoolLaw s ∧ InUseLaw s ∧ LimitLaw s

/-! ### Management requests, as the statements speak of them -/

/-- The agent is about to take `q`, and `rest` stays in its queue (R126). -/
abbrev Taking (s : State) (q : MgmtRequest) (rest : List MgmtRequest) : Prop :=
  s.agent.buffer = none ∧ s.agent.queue = q :: rest

/-- The body of a request: its operation code, three bytes that are not read, and the operands (R127). -/
abbrev Carries (q : MgmtRequest) (code : Nat) (operands : List Byte) : Prop :=
  q.body.length = 4 + operands.length ∧ q.body.headD 0 = BitVec.ofNat 8 code ∧ q.body.drop 4 = operands

/-- The agent after a request is answered: the request gone from the queue, its response in the buffer under the reply stack formed
when it was taken, with the code it carried (R21, R22, R126, R127). -/
def answered (s : State) (q : MgmtRequest) (rest : List MgmtRequest) (result : MgmtResult) (fields : List Byte) : Agent :=
  { s.agent with
    queue := rest
    buffer := some
      { op := q.body.headD 0
        result := result
        fields := fields
        stack := s.agent.replyLabel :: q.labels
        source := q.source
        sequence := q.sequence } }

/-- The state with another agent and everything else as it was. -/
def withAgent (s : State) (a : Agent) : State := { s with agent := a }

/-- The requester holds the lock with a lease of `lease` ms (R128). -/
abbrev Holds (s : State) (q : MgmtRequest) (lease : Nat) : Prop :=
  s.agent.holder = some q.source ∧ s.agent.lease = some lease

/-- The agent after a DONE of the holder that restarts the lease (R131). -/
def renewed (s : State) (q : MgmtRequest) (rest : List MgmtRequest) (lease : Nat) (fields : List Byte) : Agent :=
  { answered s q rest .done fields with remaining := lease * 1000 }

/-- The table of the operations (R173): the command, its code and the length of its operands. -/
def operationTable : List (Instr × Nat × Nat) :=
  [(.lock, 1, 2), (.unlock, 2, 0), (.readDevice, 3, 0), (.setDevice, 4, 5), (.readRoute, 5, 1), (.findRoute, 6, 2),
   (.writeRoute, 7, 36), (.openRoute, 8, 1), (.drainRoute, 9, 1), (.deleteRoute, 10, 1), (.readLane, 11, 1), (.setLane, 12, 4),
   (.resetLane, 13, 1), (.readTransactions, 14, 0), (.readCounters, 15, 2), (.setFlow, 16, 19), (.readFlow, 17, 0),
   (.setEvents, 18, 12), (.ackEvents, 19, 4), (.deviceReset, 20, 0)]

/-- The operations that every request of requires the lock for (R128); READ_COUNTERS requires it when it asks for clearing. -/
def lockedCommands : List Instr :=
  [.setDevice, .writeRoute, .openRoute, .drainRoute, .deleteRoute, .setLane, .resetLane, .setFlow, .setEvents, .deviceReset]

/-- Eight bytes spell a destination in range (R171): none is source 255 and the rest is not read; of a destination the source, the label
count and as many labels as it says, the first 1 to 4094 and each later one at most 4094. Label slots beyond the count are not read. -/
def Spells (bs : List Byte) : Option Destination → Prop
  | none => byteAt bs 0 = 255
  | some d =>
    byteAt bs 0 = d.source.val ∧ byteAt bs 1 = d.stack.length ∧ (1 ≤ d.stack.length ∧ d.stack.length ≤ 3) ∧
    (∀ k, k < d.stack.length → fieldAt bs (2 + 2 * k) 2 = d.stack.getD k 0) ∧
    1 ≤ d.stack.headD 0 ∧ ∀ l ∈ d.stack, l ≤ 4094

/-- Eight bytes spell a destination out of range (R171): a source of 64 to 254, or a source with a label count other than 1 to 3 or a
label out of range among those it counts. -/
def SpellsNone (bs : List Byte) : Prop :=
  byteAt bs 0 ≠ 255 ∧
  (63 < byteAt bs 0 ∨ byteAt bs 1 < 1 ∨ 3 < byteAt bs 1 ∨ fieldAt bs 2 2 < 1 ∨
    ∃ k, k < byteAt bs 1 ∧ 4094 < fieldAt bs (2 + 2 * k) 2)

/-- Nineteen bytes spell flow settings, in range or out of it (10.4). -/
def SpellsFlow (bs : List Byte) (g : FlowSettings) : Prop :=
  byteAt bs 0 = g.mode.code ∧ fieldAt bs 1 2 = g.poolHold ∧ fieldAt bs 3 2 = g.poolRelease ∧ byteAt bs 5 = g.laneHold ∧
  byteAt bs 6 = g.laneRelease ∧ fieldAt bs 7 2 = g.holdTime ∧ fieldAt bs 9 2 = g.refreshInterval ∧ Spells (bs.drop 11) g.destination

/-! ### Tables of the spec -/

/-- The last four bytes of a frame differ from the CRC of those before them, or there are fewer than four (R111). -/
def crcFails (bs : List Byte) : Bool :=
  bs.length < 4 || bs.drop (bs.length - 4) != crcBytes (crc32 (bs.take (bs.length - 4)))

/-- A label entry of a frame: two bytes, the first entry at offset 6 (R169). -/
def labelEntry (bs : List Byte) (k : Nat) : Nat := fieldAt bs (6 + 2 * k) 2

/-- The number of labels: the place of the first of three entries with the bottom flag (R169). -/
def labelCount (bs : List Byte) : Option Nat := ([0, 1, 2].find? fun k => (labelEntry bs k).testBit 3).map (· + 1)

/-- The list of R112: when a frame is malformed. -/
def malformed (bs : List Byte) : Bool :=
  let kind := byteAt bs 0 / 16
  let outer := labelEntry bs 0 / 16
  let bridge := kind == 2 || kind == 3 || kind == 4
  bs.length < 12 || byteAt bs 0 % 16 != 1 || byteAt bs 1 % 4 != 0 ||
  match labelCount bs with
  | none => true
  | some n =>
    (List.range n).any (fun k => labelEntry bs k % 8 != 0) ||
    (List.range n).any (fun k => labelEntry bs k / 16 == 4095) ||
    bs.length != 6 + 2 * n + fieldAt bs 4 2 + 4 ||
    (outer == 0 && !bridge) || (bridge && outer != 0)

/-- The fits of R28. -/
def shapeFits (g : Shape) (w r : Nat) : Bool :=
  match g with
  | .write => r = 0
  | .read => w = 0 ∧ 1 ≤ r
  | .exchange => r = w ∧ 1 ≤ r
  | .commandRead => 1 ≤ w ∧ 1 ≤ r

/-- The admission checks in their order (R24), for a request whose label finds entry `k`, if any: when each refuses, and with what. A
body too short to carry the counts is refused at the place of the fourth check (R28). -/
def admissionChecks (f : InFrame) (k : Option RouteId) (s : State) : List (Bool × RefusalReason) :=
  let e := s.route (k.getD 0)
  let g := e.config
  let w := fieldAt f.body 0 2
  let r := fieldAt f.body 2 2
  [ (k = none, .noRoute),
    (e.state = .closed, .routeClosed),
    (e.state = .draining, .routeDraining),
    (g.permitted.getLsbD f.source.val = false, .sourceDenied),
    (f.body.length < 4, .badLength),
    (shapeFits g.shape w r = false, .badShape),
    (f.body.length ≠ 4 + w * wordBytes g.wordSize, .badLength),
    (g.maxWrite < w ∨ g.maxRead < r, .tooLong),
    (∃ i, (s.slot i).state ≠ .free ∧ (s.slot i).source = f.source ∧ (s.slot i).sequence = f.sequence, .duplicate),
    (∀ i, (s.slot i).state ≠ .free, .noSlot),
    ((s.lane g.lane).state = .off, .laneOff),
    (16 ≤ s.occupancy g.lane, .laneFull),
    (s.freeCells < cellsNeeded (wordBytes g.wordSize) w r, .noCells) ]

/-- The result of the first check that refuses, none where every check passes (R24). -/
def firstRefusal (f : InFrame) (s : State) : Option RefusalReason :=
  ((admissionChecks f (lookup (f.labels.headD 0) s) s).find? (·.1)).map (·.2)

/-- Where a refusal is counted (R35). -/
def refusalCounted (f : InFrame) (reason : RefusalReason) (s : State) : State :=
  match lookup (f.labels.headD 0) s with
  | none => bumpDevice .noRouteRefusals 1 s
  | some k => if reason = .noRoute then s else bumpSet (s.route k).config.counterSet .refused 1 s

/-- The fields of a route entry pass the checks of R11. -/
def EntryValid (g : RouteConfig) : Prop :=
  (1 ≤ g.label ∧ g.label ≤ 4094) ∧
  g.selects ≠ 0 ∧
  (g.shape ≠ .write → ∃ k : Fin 4, g.selects = 1#4 <<< k.val) ∧
  (4 ≤ g.wordSize ∧ g.wordSize ≤ 32) ∧
  (2 ≤ g.clockDivisor ∧ g.clockDivisor ≤ 65534 ∧ g.clockDivisor % 2 = 0) ∧
  g.sampleDelay ≤ 3 ∧
  (g.maxWrite ≤ 256 ∧ g.maxRead ≤ 256) ∧
  (g.shape = .write → g.maxRead = 0) ∧
  (g.shape = .read → g.maxWrite = 0 ∧ g.maxRead ≠ 0) ∧
  (g.shape = .exchange → g.maxWrite = g.maxRead ∧ g.maxWrite ≠ 0) ∧
  (g.shape = .commandRead → g.maxWrite ≠ 0 ∧ g.maxRead ≠ 0) ∧
  (g.responsePolicy = .errorsOnly → g.shape = .write) ∧
  (g.readyWait = .beforeStart → g.readyTimeout ≠ 0) ∧
  g.retryLimit ≤ 3 ∧
  (1 ≤ g.replyLabel ∧ g.replyLabel ≤ 4094)

/-- The length buckets with their ranges (R151). -/
def bucketTable : List (SetCounter × Nat × Nat) :=
  [(.len0to1, 0, 1), (.len2to3, 2, 3), (.len4to15, 4, 15), (.len16to63, 16, 63), (.len64to255, 64, 255), (.len256to512, 256, 512)]

/-- The slots that link down frees: the QUEUED and the DONE ones (R60). -/
def leaving (s : State) : List SlotId :=
  (List.finRange 64).filter fun i => (s.slot i).state == .queued || (s.slot i).state == .done

/-- The drain of entry `r` is completed by the freeing of the slots `is` in one event (R18, R59). -/
def completesDrain (is : List SlotId) (s : State) (r : RouteId) : Bool :=
  let n := (is.filter fun i => (s.slot i).route = r).length
  (s.route r).state = .draining ∧ n ≠ 0 ∧ (s.route r).inUse ≤ n

/-- A frame that an inbound kind may carry, within the size the settings allow (R112, R113). -/
abbrev InboundForm (s : State) (kind : Nat) (labels : List Nat) (body : List Byte) : Prop :=
  (if kind = 1 then 1 ≤ labels.headD 0 else labels.headD 0 = 0) ∧
  (1 ≤ labels.length ∧ labels.length ≤ 3) ∧
  (∀ l ∈ labels, l ≤ 4094) ∧
  10 + 2 * labels.length + body.length ≤ s.agent.maxFrame + 2 * (labels.length - 1) ∧
  s.agent.maxFrame ≤ 1040

end Sys2Proof.Safety
end

