-- ==== Sys2Proof/Certificates/Slice0/Obligations.lean ====
section
/-!
DEFINITION. The statements about the bridge that are to be proved. A statement speaks of every state; where it could fail in states that
no run reaches, the laws of Safety.lean it needs are among its hypotheses, and that every step keeps them is a statement of its own.
A shared operation of the model that a statement names (judgeFlow, setCondition, decideOutcome, freeSlots, addRecord, contentionAbort,
strayCaptures) has a statement of its own that says what it does.
-/
open Sys2Proof Sys2Proof.Machine Sys2Proof.Safety

/-! ### The machine -/

/-- A step takes the command at the front of the queue and executes it with the queue's rest. -/
def Obligations.StepRunsFrontCommand : Prop :=
  ∀ (c : Instr) (s : State) (rest : List Instr), s.pending = c :: rest → step s = exec c { s with pending := rest }

/-- With no command waiting, the next event the bridge brings about by itself enters the queue, and where there is none one microsecond
passes: every running timer counts down and stands at 1 until its expiry, which enters the queue, is taken. The model's choice
(log 12): the table of commands has no row for the Time Base. A timer that is stopped stays stopped. -/
def Obligations.IdleStep : Prop :=
  ∀ s : State, s.pending = [] →
    (∀ c, nextInternal s = some c → step s = .next { s with pending := [c] }) ∧
    (nextInternal s = none → ∃ t, step s = .next t ∧
      t.timeBase = s.timeBase + 1 ∧ t.pending = expiries s ∧
      (∀ l, t.lane l = { s.lane l with
        readyTimer := (s.lane l).readyTimer.map fun n => if n ≤ 1 then n else n - 1
        gapTimer := (s.lane l).gapTimer.map fun n => if n ≤ 1 then n else n - 1 }) ∧
      t = { s with
        timeBase := t.timeBase, pending := t.pending, lanes := t.lanes
        trans := { s.trans with inboundHold := if s.trans.inboundHold ≤ 1 then s.trans.inboundHold else s.trans.inboundHold - 1 }
        agent := { s.agent with remaining := if s.agent.remaining ≤ 1 then s.agent.remaining else s.agent.remaining - 1 }
        receiver := { s.receiver with syncTimer := s.receiver.syncTimer.map (· + 1) }
        flow := { s.flow with refreshTimer := s.flow.refreshTimer.map fun n => if n ≤ 1 then n else n - 1 }
        events := { s.events with repeatTimer := s.events.repeatTimer.map fun n => if n ≤ 1 then n else n - 1 } })

/-- Every command has a next state in every state, and leaves the queue of commands alone: no command faults and none is refused. The
model's choice: that a command whose event does not arise answers a next state (log 10), that the queue stands through POWER_ON and
DEVICE_RESET (log 7), and that nothing faults (log 20). -/
def Obligations.EveryCommandRuns : Prop :=
  ∀ (c : Instr) (s : State), ∃ t, exec c s = .next t ∧ t.pending = s.pending

/-! ### Power-on, the reset line and the link -/

/-- POWER_ON at the Transaction Table (R63). -/
def Obligations.PowerOnTable : Prop :=
  ∀ s : State, ∃ t, exec .powerOn s = .next t ∧
    (∀ i, t.slot i = Slot.freed) ∧ (∀ l, t.queue l = []) ∧ t.completion = [] ∧
    (∀ l, (t.lane l).current = none) ∧ t.freeCells = 1024 ∧ (∀ r, (t.route r).inUse = 0)

/-- POWER_ON gives every block its power-on values and drives the lane outputs at the OFF levels; while the reset line is asserted they
are in high impedance, the selects pulled up, the transmit pair is at common mode and the Receiver is not in synchronisation; otherwise
the pair carries the frame being sent, and idle characters while there is none (R88, R90, R123). The model's choices: the levels at the
lane inputs stand (log 4), the cells hold 0 (log 5), the queue and the count of free values stand (log 7), the Time Base is 0 (log 8),
and the asserted line changes nothing else (log 9). -/
def Obligations.ResetPins : Prop :=
  (∀ s : State, ∃ t, exec .powerOn s = .next t ∧
    t = { State.reset with lanes := t.lanes, draws := s.draws, pending := s.pending } ∧
    (∀ l, t.lane l = { LaneEngine.powerOn with readyIn := (s.lane l).readyIn, claimIn := (s.lane l).claimIn }) ∧
    (∀ l k time, selectPin t l k = .high ∧ clockPin t l time = .low ∧ dataPin t l time = some .low) ∧
    transmitPair t = .idle) ∧
  (∀ s : State, ∃ t, exec .resetLineAsserted s = .next t ∧
    t = { s with
      resetLine := true
      receiver := { s.receiver with inSync := false, syncTimer := none, reception := none } } ∧
    (∀ l k time, selectPin t l k = .pulledUp ∧ clockPin t l time = .highZ ∧ dataPin t l time = some .highZ) ∧
    transmitPair t = .commonMode) ∧
  (∀ s : State, s.resetLine = false →
    (s.trans.output = none → transmitPair s = .idle) ∧
    (∀ f, s.trans.output = some f → transmitPair s = .frame f.bytes))

/-- SYNC_FOUND starts the measurement while the link is DOWN and stops the loss timer while it is UP; SYNC_LOST abandons the frame in
reception, and starts the loss timer while the link is UP (R108, R109, R110). -/
def Obligations.SynchronisationEvents : Prop :=
  (∀ s : State, s.receiver.inSync = false → s.resetLine = false →
    exec .syncFound s = .next { s with receiver := { s.receiver with
      inSync := true, syncTimer := if s.receiver.link = .down then some 0 else none } }) ∧
  (∀ s : State, s.receiver.inSync = true →
    exec .syncLost s = .next { s with receiver := { s.receiver with
      inSync := false, syncTimer := if s.receiver.link = .up then some 0 else none, reception := none } })

/-- LINK_UP (R108, R101, R167): the link is UP, LINK_RESTORED is set and judged, and a Flow Controller that stands HOLDING with a
destination requests a HOLD frame and starts its refresh timer; nothing else changes. -/
def Obligations.LinkUp : Prop :=
  ∀ s : State, s.receiver.link = .down → s.receiver.inSync = true → s.receiver.syncTimer.isSome = true →
    ∃ t, exec .linkUp s = .next t ∧
      t = { s with
        receiver := { s.receiver with link := .up, syncTimer := none }
        events := t.events
        flow := t.flow } ∧
      t.events.conditions = s.events.conditions.set 8 .unreported ∧
      (if s.events.state = .quiet ∧ s.events.destination.isSome = true ∧ t.events.hasNews = true then
        t.events = { s.events with conditions := t.events.conditions, state := .requested, request := true }
      else t.events = { s.events with conditions := t.events.conditions }) ∧
      (∀ d, s.flow.settings.destination = some d → s.flow.state = .holding → s.flow.settings.mode ≠ .off →
        t.flow = { s.flow with
          pendingHold := some
            { holdTime := s.flow.settings.holdTime, lanes := s.flow.heldLanes, poolFlag := s.flow.poolFlag, destination := d }
          refreshTimer := some s.flow.settings.refreshInterval }) ∧
      (s.flow.settings.destination = none ∨ s.flow.state = .clear ∨ s.flow.settings.mode = .off → t.flow = s.flow)

/-- LINK_DOWN at the Transaction Table, the Route Table and the counters (R59, R60, R61): QUEUED and DONE slots are freed, ACTIVE slots
become orphans, every queue is empty, the cells of the freed slots return, the in-use counts fall, drains complete in ascending order of
index; LINK_LOST is counted in DONE_FAIL for each QUEUED slot, and each DONE slot in RESPONSES_DISCARDED. -/
def Obligations.LinkDownTable : Prop :=
  ∀ s : State, s.receiver.link = .up → s.receiver.inSync = false → s.receiver.syncTimer.isSome = true →
    ∃ t, exec .linkDown s = .next t ∧
      (∀ i, t.slot i =
        match (s.slot i).state with
        | .free => s.slot i
        | .queued => Slot.freed
        | .active => { s.slot i with orphan := true }
        | .done => Slot.freed) ∧
      (∀ l, t.queue l = []) ∧ t.completion = [] ∧ t.lanes = s.lanes ∧ t.mem = s.mem ∧
      t.freeCells = s.freeCells + ((leaving s).map fun i => (s.slot i).cells.length).sum ∧
      (∀ r, t.route r = { s.route r with
        inUse := (s.route r).inUse - ((leaving s).filter fun i => (s.slot i).route = r).length
        state := if completesDrain (leaving s) s r then .closed else (s.route r).state }) ∧
      t.events.drained = s.events.drained ++
        (List.finRange 128).filter (fun r => completesDrain (leaving s) s r && !(s.events.drained.contains r)) ∧
      (∀ k c, t.setCount k c = s.setCount k c +
        if c = .doneFail then
          BitVec.ofNat 40 ((List.finRange 64).filter fun i =>
            (s.slot i).state = .queued ∧ (s.slotRoute i).counterSet = some k).length
        else 0) ∧
      (∀ c, t.deviceCount c = s.deviceCount c +
        if c = .responsesDiscarded then BitVec.ofNat 40 ((List.finRange 64).filter fun i => (s.slot i).state = .done).length
        else if c = .linkDowns then 1 else 0)

/-- LINK_DOWN at the Receiver, the Transmitter, the agent, the Event Unit and the Flow Controller, which judges the counts that the
Transaction Table leaves (R23, R101, R121, R132, R133, R167). The abort delimiter is sent unless the reset line is asserted (R123). The
model's reading: POOL_LOW is set exactly when the flag was lowered before the event and is raised after it (log 15). -/
def Obligations.LinkDownBlocks : Prop :=
  ∀ s : State, s.receiver.link = .up → s.receiver.inSync = false → s.receiver.syncTimer.isSome = true →
    ∃ t, exec .linkDown s = .next t ∧
      t.receiver = { s.receiver with
        link := .down, syncTimer := none, reception := none
        admission := s.receiver.admission.map fun w => { w with lost := true } } ∧
      t.trans = { s.trans with
        output := none
        lastMark := if s.trans.output.isSome = true ∧ s.resetLine = false then .abort else s.trans.lastMark
        shortQueue := [], inboundHold := 0, lastServed := .completion } ∧
      t.agent = { s.agent with buffer := none, holder := none, lease := none, remaining := 0 } ∧
      t.events = { s.events with
        conditions := t.events.conditions, drained := t.events.drained
        state := .quiet, outstanding := none, request := false, repeatTimer := none } ∧
      (∀ c, s.events.cond c ≠ .clear → t.events.cond c = .unreported) ∧
      (∀ c, c ≠ .drainDone → c ≠ .poolLow → s.events.cond c = .clear → t.events.cond c = .clear) ∧
      (s.events.cond .drainDone = .clear → (t.events.cond .drainDone = .unreported ↔ ∃ r, completesDrain (leaving s) s r = true)) ∧
      (s.events.cond .poolLow = .clear →
        (t.events.cond .poolLow = .unreported ↔ s.flow.poolFlag = false ∧ t.freeCells ≤ s.flow.settings.poolHold)) ∧
      t.flow.settings = s.flow.settings ∧ t.flow.refreshTimer = none ∧ t.flow.pendingHold = none ∧
      t.flow.poolFlag = decide (t.freeCells ≤ s.flow.settings.poolHold) ∧
      (∀ l : LaneId, t.flow.heldLanes.getLsbD l = decide (s.flow.settings.laneHold ≤ t.occupancy l)) ∧
      (t.flow.state = .holding ↔
        s.flow.settings.mode ≠ .off ∧ (t.flow.poolFlag = true ∨ ∃ l : LaneId, t.flow.heldLanes.getLsbD l = true)) ∧
      t.timeBase = s.timeBase ∧ t.resetLine = s.resetLine ∧ t.draws = s.draws ∧ t.pending = s.pending

/-! ### Receiving -/

/-- START_DELIMITER begins a frame while the link is UP, and abandons one in reception; FRAME_ABANDONED discards the frame in reception,
uncounted, and a second start delimiter begins its own (R110); nothing is taken while the link is DOWN (R108). The model's reading: none
begins in a break of synchronisation (log 24). -/
def Obligations.FrameBegun : Prop :=
  (∀ s : State, s.receiver.link = .up → s.receiver.inSync = true → s.resetLine = false →
    exec .startDelimiter s = .next { s with receiver := { s.receiver with
      reception := some { crc := 0xffffffff#32, tail := [], count := 0, stored := [] } } }) ∧
  (∀ s : State, s.receiver.link = .down ∨ s.receiver.inSync = false → exec .startDelimiter s = .next s) ∧
  (∀ (s : State) (r : Reception), s.receiver.reception = some r →
    exec (.frameAbandoned .secondStart) s = .next { s with receiver := { s.receiver with
      reception := some { crc := 0xffffffff#32, tail := [], count := 0, stored := [] } } }) ∧
  (∀ (s : State) (cause : AbandonCause), cause ≠ .secondStart →
    exec (.frameAbandoned cause) s = .next { s with receiver := { s.receiver with reception := none } })

/-- What a partner sends as a REQUEST or a CANCEL is what Admission finds in its list: the receiving of a frame inverts the building of
it, for every source, sequence, label stack and body (R111 to R114, R169, R170). Where a frame still waits, Admission takes it before the
next is taken whole (R23); that a FRAME_TAKEN_WHOLE brings this taking with it is the model's way of keeping that order (log 13). -/
def Obligations.RequestFrameArrives : Prop :=
  (∀ (s : State) (isCancel : Bool) (source : Source) (sequence : BitVec 16) (labels : List Nat) (body : List Byte),
    let kind := if isCancel then 2 else 1
    InboundForm s kind labels body → s.receiver.reception = some Reception.start → s.receiver.admission = [] →
    exec (.frameTakenWhole (buildFrame kind source sequence labels body)) s = .next { s with
      receiver := { s.receiver with
        reception := none
        admission :=
          [{ frame := { kind := kind, source := source, sequence := sequence, labels := labels, body := body }
             isCancel := isCancel
             lost := false }] }
      counters := (bumpDevice .framesReceived 1 s).counters }) ∧
  (∀ (s : State) (bytes : List Byte) (w : WaitingFrame) (rest : List WaitingFrame),
    s.receiver.reception.isSome = true → s.receiver.admission = w :: rest →
    ∃ t, exec (if w.isCancel then .cancel else .request) s = .next t ∧ t.receiver = { s.receiver with admission := rest } ∧
      exec (.frameTakenWhole bytes) s = exec (.frameTakenWhole bytes) t)

/-- A good MGMT frame joins the management queue, or is dropped with MGMT_DROPPED and MGMT_LOSS when that holds 4 (R125); a good HOLD
frame sets the inbound hold timer when its body is 4 bytes long and react is on, and is counted in HOLDS_RECEIVED (R103). With a frame
waiting for Admission its taking comes first (RequestFrameArrives). -/
def Obligations.ServedFrameArrives : Prop :=
  ∀ (s : State) (source : Source) (sequence : BitVec 16) (labels : List Nat) (body : List Byte),
    s.receiver.reception = some Reception.start → s.receiver.admission = [] →
    (InboundForm s 3 labels body →
      exec (.frameTakenWhole (buildFrame 3 source sequence labels body)) s = .next
        (if s.agent.queue.length < 4 then
          { s with
            receiver := { s.receiver with reception := none }
            counters := (bumpDevice .framesReceived 1 s).counters
            agent := { s.agent with queue := s.agent.queue ++
              [{ source := source, sequence := sequence, labels := labels.tail, body := body }] } }
        else
          { s with
            receiver := { s.receiver with reception := none }
            counters := (bumpDevice .mgmtDropped 1 (bumpDevice .framesReceived 1 s)).counters
            events := (setCondition .mgmtLoss s).events })) ∧
    (InboundForm s 4 labels body →
      exec (.frameTakenWhole (buildFrame 4 source sequence labels body)) s = .next
        (if body.length = 4 then
          { s with
            receiver := { s.receiver with reception := none }
            counters := (bumpDevice .holdsReceived 1 (bumpDevice .framesReceived 1 s)).counters
            trans := { s.trans with inboundHold := if s.agent.react then fieldAt body 0 2 else s.trans.inboundHold } }
        else
          { s with
            receiver := { s.receiver with reception := none }
            counters := (bumpDevice .framesReceived 1 s).counters }))

/-- The receive checks in their order (R111, R112, R113): the first that fails drops the frame, counts it, and sets RECEIVE_ERROR for the
first three. With a frame waiting for Admission its taking comes first (RequestFrameArrives). -/
def Obligations.ReceiveChecks : Prop :=
  ∀ (s : State) (bytes : List Byte), s.receiver.reception = some Reception.start → s.receiver.admission = [] →
    let dropped (c : DeviceCounter) : State :=
      { s with
        receiver := { s.receiver with reception := none }
        counters := (bumpDevice c 1 s).counters
        events := (setCondition .receiveError s).events }
    let limit := s.agent.maxFrame + 2 * ((labelCount bytes).getD 1 - 1)
    (crcFails bytes = true → exec (.frameTakenWhole bytes) s = .next (dropped .crcErrors)) ∧
    (crcFails bytes = false → malformed bytes = true → exec (.frameTakenWhole bytes) s = .next (dropped .malformed)) ∧
    (crcFails bytes = false → malformed bytes = false → limit < bytes.length →
      exec (.frameTakenWhole bytes) s = .next (dropped .oversize)) ∧
    (crcFails bytes = false → malformed bytes = false → bytes.length ≤ limit → byteAt bytes 0 / 16 < 1 ∨ 4 < byteAt bytes 0 / 16 →
      exec (.frameTakenWhole bytes) s = .next { s with
        receiver := { s.receiver with reception := none }, counters := (bumpDevice .unknownKind 1 s).counters })

/-! ### Shared operations -/

/-- Setting a condition (R162, R163): it is set and unreported, and a frame is requested when the Event Unit is QUIET, the destination is
not none, the link is UP and a condition that is not masked is set and unreported. -/
def Obligations.ConditionSet : Prop :=
  ∀ (c : Condition) (s : State),
    (∀ d, (setCondition c s).events.cond d = if d = c then .unreported else s.events.cond d) ∧
    setCondition c s = { s with events := { s.events with
      conditions := (setCondition c s).events.conditions
      state := (setCondition c s).events.state
      request := (setCondition c s).events.request } } ∧
    (if s.events.state = .quiet ∧ s.events.destination.isSome = true ∧ s.receiver.link = .up ∧
        (∃ i : Fin 9, (setCondition c s).events.conditions[i] = .unreported ∧ s.events.mask.getLsbD i.val = false) then
      (setCondition c s).events.state = .requested ∧ (setCondition c s).events.request = true
    else (setCondition c s).events.state = s.events.state ∧ (setCondition c s).events.request = s.events.request)

/-- The judgement of the Flow Controller (R96, R97, R98): the flag and the set move by their two levels, the state follows the pressure
while the mode is not OFF, a change of the flag or the set under standing pressure makes a hold request, and the end of the pressure
makes a release request or withdraws. -/
def Obligations.FlowJudgement : Prop :=
  ∀ s : State,
    let t := judgeFlow s
    let g := s.flow.settings
    let stands := t.flow.poolFlag = true ∨ ∃ l : LaneId, t.flow.heldLanes.getLsbD l = true
    let changed := t.flow.poolFlag ≠ s.flow.poolFlag ∨ t.flow.heldLanes ≠ s.flow.heldLanes
    t = { s with flow := t.flow, events := t.events } ∧
    t.events = (if t.flow.poolFlag = true ∧ s.flow.poolFlag = false then (setCondition .poolLow s).events else s.events) ∧
    t.flow.settings = g ∧
    (t.flow.poolFlag = if s.freeCells ≤ g.poolHold then true else if g.poolRelease ≤ s.freeCells then false else s.flow.poolFlag) ∧
    (∀ l : LaneId, t.flow.heldLanes.getLsbD l =
      if g.laneHold ≤ s.occupancy l then true else if s.occupancy l ≤ g.laneRelease then false else s.flow.heldLanes.getLsbD l) ∧
    (g.mode = .off → t.flow.state = .clear ∧ t.flow.refreshTimer = none ∧ t.flow.pendingHold = s.flow.pendingHold) ∧
    (g.mode ≠ .off → (t.flow.state = .holding ↔ stands)) ∧
    (g.mode ≠ .off → stands → s.flow.state = .clear ∨ changed →
      t.flow.refreshTimer = (if s.receiver.link = .up then some g.refreshInterval else none) ∧
      (∀ d, g.destination = some d → s.receiver.link = .up → t.flow.pendingHold = some
        { holdTime := g.holdTime, lanes := t.flow.heldLanes, poolFlag := t.flow.poolFlag, destination := d }) ∧
      (g.destination = none ∨ s.receiver.link = .down → t.flow.pendingHold = s.flow.pendingHold)) ∧
    (g.mode ≠ .off → stands → s.flow.state = .holding → ¬ changed →
      t.flow.refreshTimer = s.flow.refreshTimer ∧ t.flow.pendingHold = s.flow.pendingHold) ∧
    (g.mode ≠ .off → ¬ stands → s.flow.state = .holding →
      t.flow.refreshTimer = none ∧
      (g.mode = .holdOnly → t.flow.pendingHold = none) ∧
      (g.mode = .holdRelease → ∀ d, g.destination = some d → s.receiver.link = .up →
        t.flow.pendingHold = some { holdTime := 0, lanes := 0, poolFlag := false, destination := d })) ∧
    (g.mode ≠ .off → ¬ stands → s.flow.state = .clear →
      t.flow.refreshTimer = s.flow.refreshTimer ∧ t.flow.pendingHold = s.flow.pendingHold)

/-- A record joins the tail of the short-response queue, or is dropped when the queue holds 16, which is counted and sets SHORT_LOSS
(R36, R44, R117). -/
def Obligations.RecordQueue : Prop :=
  ∀ (r : ShortRecord) (s : State),
    (s.trans.shortQueue.length < 16 →
      addRecord r s = { s with trans := { s.trans with shortQueue := s.trans.shortQueue ++ [r] } }) ∧
    (16 ≤ s.trans.shortQueue.length →
      addRecord r s = { s with
        counters := (bumpDevice .shortDropped 1 s).counters, events := (setCondition .shortLoss s).events })

/-- The freeing of slots in one event (R17, R18, R58, R59): they take their FREE values, their cells return, each entry's in-use count
falls by the number of its slots among them, and the drains this completes are reported in ascending order of index, an EVENT frame being
requested when the conditions they leave call for one (R162, R163). -/
def Obligations.SlotsFreed : Prop :=
  ∀ (is : List SlotId) (s : State),
    let t := freeSlots is s
    let called := (∃ r, completesDrain is s r = true) ∧ s.events.state = .quiet ∧ s.events.destination.isSome = true ∧
      s.receiver.link = .up ∧ ∃ i : Fin 9, t.events.conditions[i] = .unreported ∧ s.events.mask.getLsbD i.val = false
    (∀ i, t.slot i = if i ∈ is then Slot.freed else s.slot i) ∧
    t.freeCells = s.freeCells + (is.map fun i => (s.slot i).cells.length).sum ∧
    (∀ r, t.route r = { s.route r with
      inUse := (s.route r).inUse - (is.filter fun i => (s.slot i).route = r).length
      state := if completesDrain is s r then .closed else (s.route r).state }) ∧
    t = { s with slots := t.slots, freeCells := t.freeCells, routes := t.routes, events := t.events } ∧
    t.events.drained = s.events.drained ++
      (List.finRange 128).filter (fun r => completesDrain is s r && !(s.events.drained.contains r)) ∧
    (∀ c, t.events.cond c = if c = .drainDone ∧ (∃ r, completesDrain is s r = true) then .unreported else s.events.cond c) ∧
    t.events = { s.events with
      conditions := t.events.conditions, drained := t.events.drained, state := t.events.state, request := t.events.request } ∧
    (called → t.events.state = .requested ∧ t.events.request = true) ∧
    (¬ called → t.events.state = s.events.state ∧ t.events.request = s.events.request) ∧
    ((∀ r, completesDrain is s r = false) → t.events = s.events)

/-- The decision of an outcome (R53, R54): it is counted in the set of the slot's route; LINK_LOST, an orphan, and an OK that wants no
response free the slot at once; any other slot becomes DONE at the tail of the completion queue. -/
def Obligations.OutcomeDecided : Prop :=
  ∀ (i : SlotId) (o : TxOutcome) (s : State),
    let k := (s.slotRoute i).counterSet
    let counted : State :=
      if o = .ok then
        bumpSet k (lengthBucket ((s.slot i).writeCount + (s.slot i).readCount)) 1
          (bumpSet k .wordsRead (s.slot i).readCount (bumpSet k .wordsWritten (s.slot i).writeCount (bumpSet k .doneOk 1 s)))
      else bumpSet k .doneFail 1 s
    decideOutcome i o s =
      if o = .linkLost ∨ (s.slot i).orphan = true ∨ (o = .ok ∧ (s.slot i).responseWanted = false) then
        freeSlots [i] { s with counters := counted.counters }
      else
        { s with
          counters := counted.counters
          slots := s.slots.set i { s.slot i with state := .done, outcome := some o }
          completion := s.completion ++ [i] }

/-! ### Admission -/

/-- A REQUEST that a check refuses (R24 to R36): the first check that fails gives the result; the refusal is counted in one place, and
its record joins the short-response queue under the device reply label; nothing else changes. -/
def Obligations.RequestRefused : Prop :=
  ∀ (s : State) (w : WaitingFrame) (rest : List WaitingFrame) (reason : RefusalReason),
    s.receiver.admission = w :: rest → w.isCancel = false → w.lost = false →
    firstRefusal w.frame s = some reason →
    exec .request s = .next
      (addRecord
        { kind := .refusal reason, source := w.frame.source, sequence := w.frame.sequence
          stack := s.agent.replyLabel :: w.frame.labels.tail }
        (refusalCounted w.frame reason { s with receiver := { s.receiver with admission := rest } }))

/-- A REQUEST that passes every check (R24, R37, R38): the FREE slot with the lowest index is QUEUED with the fields of R37 at the tail of
its lane's queue, cells that were free are reserved and hold the write words, the in-use count and ADMITTED rise, and the Flow
Controller judges the new counts; every other slot, queue, entry and byte stands. -/
def Obligations.RequestAdmitted : Prop :=
  ∀ (s : State) (w : WaitingFrame) (rest : List WaitingFrame) (k : RouteId) (i : SlotId),
    MemLaw s → PoolLaw s →
    s.receiver.admission = w :: rest → w.isCancel = false → w.lost = false →
    firstRefusal w.frame s = none → lookup (w.frame.labels.headD 0) s = some k →
    (s.slot i).state = .free → (∀ j, j < i → (s.slot j).state ≠ .free) →
    let f := w.frame
    let g := (s.route k).config
    let need := cellsNeeded (wordBytes g.wordSize) (fieldAt f.body 0 2) (fieldAt f.body 2 2)
    ∃ t, exec .request s = .next t ∧
      t.slot i =
        { state := .queued, source := f.source, sequence := f.sequence, route := k, lane := g.lane, shape := g.shape
          wordBytes := wordBytes g.wordSize, writeCount := fieldAt f.body 0 2, readCount := fieldAt f.body 2 2
          cells := (t.slot i).cells, attempts := 0, outcome := none, orphan := false
          responseStack := g.replyLabel :: f.labels.tail, responseWanted := decide (g.responsePolicy = .always) } ∧
      (t.slot i).cells.length = need ∧ (t.slot i).cells.Nodup ∧ (∀ c ∈ (t.slot i).cells, c < 1024 ∧ c ∉ reservedCells s) ∧
      loadBytes (t.slot i).writeCells ((t.slot i).writeCount * (t.slot i).wordBytes) t.mem = f.body.drop 4 ∧
      (∀ a, a / 32 ∉ (t.slot i).cells → readByte t.mem a = readByte s.mem a) ∧
      t.freeCells + need = s.freeCells ∧
      (∀ j, j ≠ i → t.slot j = s.slot j) ∧
      (∀ l, t.queue l = if l = g.lane then s.queue l ++ [i] else s.queue l) ∧
      (∀ r, t.route r = if r = k then { s.route r with inUse := (s.route r).inUse + 1 } else s.route r) ∧
      t = judgeFlow { s with
        routes := t.routes, slots := t.slots, queues := t.queues, freeCells := t.freeCells, mem := t.mem, draws := t.draws
        counters := (bumpSet g.counterSet .admitted 1 s).counters
        receiver := { s.receiver with admission := rest } }

/-- A CANCEL of a QUEUED slot (R40, R41): the slot leaves its queue at whatever place, is DONE with outcome CANCELLED at the tail of the
completion queue, its response wanted; DONE_FAIL counts it, and the Flow Controller judges the new occupancy. -/
def Obligations.CancelWithdraws : Prop :=
  ∀ (s : State) (w : WaitingFrame) (rest : List WaitingFrame) (i : SlotId),
    s.receiver.admission = w :: rest → w.isCancel = true → w.lost = false → w.frame.body = [] →
    findPair w.frame.source w.frame.sequence s = some i → (s.slot i).state = .queued → (s.slot i).orphan = false →
    exec .cancel s = .next (judgeFlow { s with
      receiver := { s.receiver with admission := rest }
      slots := s.slots.set i { s.slot i with state := .done, outcome := some .cancelled, responseWanted := true }
      queues := s.queues.set (s.slot i).lane ((s.queue (s.slot i).lane).erase i)
      completion := s.completion ++ [i]
      counters := (bumpSet (s.slotRoute i).counterSet .doneFail 1 s).counters })

/-- A CANCEL that withdraws nothing is answered by a record with BAD_LENGTH, UNKNOWN or TOO_LATE, and the slot it finds is untouched (R40,
R42, R43, R44); a REQUEST or CANCEL that waited while the link went down is discarded (R23). -/
def Obligations.CancelAnswered : Prop :=
  ∀ (s : State) (w : WaitingFrame) (rest : List WaitingFrame), s.receiver.admission = w :: rest →
    let s1 : State := { s with receiver := { s.receiver with admission := rest } }
    let ack (result : AckResult) : ShortRecord :=
      { kind := .cancelAck result, source := w.frame.source, sequence := w.frame.sequence
        stack := s.agent.replyLabel :: w.frame.labels.tail }
    (w.lost = true → exec (if w.isCancel then .cancel else .request) s = .next s1) ∧
    (w.lost = false → w.isCancel = true →
      (w.frame.body ≠ [] → exec .cancel s = .next (addRecord (ack .badLength) s1)) ∧
      (w.frame.body = [] → (∀ i, (s.slot i).state = .free ∨ (s.slot i).source ≠ w.frame.source ∨
          (s.slot i).sequence ≠ w.frame.sequence) → exec .cancel s = .next (addRecord (ack .unknown) s1)) ∧
      (∀ i, w.frame.body = [] → findPair w.frame.source w.frame.sequence s = some i →
        (s.slot i).state = .active ∨ (s.slot i).state = .done → exec .cancel s = .next (addRecord (ack .tooLate) s1)))

/-! ### The lanes -/

/-- LANE_START_ATTEMPT takes the slot at the head of the queue of an IDLE lane and waits for ready or shifts (R50, R68); READY_ASSERT in
READY_WAIT begins to shift, and elsewhere only stands at the input (R69). The model's choice: the command brings the level of the ready
input sensed at the start, which then stands at the input (log 22). -/
def Obligations.AttemptBegins : Prop :=
  (∀ (s : State) (l : LaneId) (ready : Bool) (i : SlotId) (rest : List SlotId),
    (s.lane l).state = .idle → s.queue l = i :: rest → ((s.lane l).claimIn = false ∨ (s.lane l).claimWatch = false) →
    exec (.laneStartAttempt l ready) s = .next { s with
      slots := s.slots.set i { s.slot i with state := .active, attempts := (s.slot i).attempts + 1 }
      queues := s.queues.set l rest
      lanes := s.lanes.set l
        (if (s.slotRoute i).readyWait = .beforeStart ∧ ready = false then
          { s.lane l with
            state := .readyWait, current := some i, clockLevel := (s.slotRoute i).idleLevel, readyIn := ready
            readyTimer := some (s.slotRoute i).readyTimeout }
        else
          { s.lane l with
            state := .shifting, current := some i, clockLevel := (s.slotRoute i).idleLevel, readyIn := ready
            selectsOut := (s.slotRoute i).selects }) }) ∧
  (∀ (s : State) (l : LaneId) (i : SlotId), (s.lane l).state = .readyWait → (s.lane l).current = some i →
    exec (.readyAssert l) s = .next { s with lanes := s.lanes.set l { s.lane l with
      state := .shifting, readyTimer := none, selectsOut := (s.slotRoute i).selects, readyIn := true } }) ∧
  (∀ (s : State) (l : LaneId), (s.lane l).state ≠ .readyWait →
    exec (.readyAssert l) s = .next { s with lanes := s.lanes.set l { s.lane l with readyIn := true } })

/-- READY_TIMER_EXPIRY (R70, R77, R82): the attempt fails, which is counted and reported with its lane; the lane enters GAP, or IDLE with
gap 0; the slot returns to the head of its queue with RETRIES counted, or READY_TIMEOUT is its outcome. -/
def Obligations.ReadyTimeout : Prop :=
  ∀ (s : State) (l : LaneId) (i : SlotId), (s.lane l).state = .readyWait → (s.lane l).current = some i →
    (s.lane l).readyTimer.isSome = true →
    let k := (s.slotRoute i).counterSet
    let u : State :=
      { s with
        lanes := s.lanes.set l { s.lane l with
          current := none, readyTimer := none, selectsOut := 0
          gapTimer := if (s.lane l).gap = 0 then none else some (s.lane l).gap
          state := if (s.lane l).gap ≠ 0 then .gap
            else if (s.lane l).claimIn && (s.lane l).claimWatch then .yielded else .idle }
        counters := (bumpSet k .readyTimeouts 1 s).counters
        events := (setCondition .readyTimeout { s with events := { s.events with
          timeoutSet := s.events.timeoutSet ||| (1#8 <<< l.val) } }).events }
    exec (.readyTimerExpiry l) s = .next
      (if (s.slot i).attempts ≤ (s.slotRoute i).retryLimit ∧ (s.slot i).orphan = false then
        { u with
          slots := s.slots.set i { s.slot i with state := .queued }
          queues := s.queues.set l (i :: s.queue l)
          counters := (bumpSet k .retries 1 u).counters }
      else judgeFlow (decideOutcome i .readyTimeout u))

/-- END_OF_LAST_WORD (R76, R77): the attempt ends OK, with its captured words in the read cells; the lane enters GAP, or with gap 0 IDLE
or YIELDED; a slot whose response is wanted becomes DONE with its counts made, and the occupancy of its lane falls by 1. The model's
choice: the command brings the record of the data input, low past its end (log 3). -/
def Obligations.EndOfLastWord : Prop :=
  ∀ (s : State) (l : LaneId) (din : List Bool) (i : SlotId), (s.lane l).state = .shifting → (s.lane l).current = some i →
    let g := s.slotRoute i
    let u : State :=
      { s with
        mem := storeBytes (s.slot i).readCells 0 (capturedBytes g (s.slot i) din (capturedWords (s.slot i))) s.mem
        lanes := s.lanes.set l { s.lane l with
          current := none, readyTimer := none, selectsOut := 0
          gapTimer := if (s.lane l).gap = 0 then none else some (s.lane l).gap
          state := if (s.lane l).gap ≠ 0 then .gap
            else if (s.lane l).claimIn && (s.lane l).claimWatch then .yielded else .idle } }
    exec (.endOfLastWord l din) s = .next (judgeFlow (decideOutcome i .ok u)) ∧
    u.occupancy l + 1 = s.occupancy l ∧
    ((s.slot i).orphan = false → (s.slot i).responseWanted = true → ∃ t, exec (.endOfLastWord l din) s = .next t ∧
      t.slot i = { s.slot i with state := .done, outcome := some .ok } ∧ t.completion = s.completion ++ [i] ∧
      t.freeCells = s.freeCells ∧ t.routes = s.routes ∧
      (∀ k, g.counterSet = some k →
        t.setCount k .doneOk = s.setCount k .doneOk + 1 ∧
        t.setCount k .wordsWritten = s.setCount k .wordsWritten + BitVec.ofNat 40 (s.slot i).writeCount ∧
        t.setCount k .wordsRead = s.setCount k .wordsRead + BitVec.ofNat 40 (s.slot i).readCount))

/-- The words an attempt captured stand in the slot's read cells when it ends OK, and no other byte of the pool changes (R72, R73, R93).
When an attempt is cut short the words captured whole by then stand there, and of the later read words, as of every other byte, none is
written (R72, R79). The model's choices: past the end of the record of the data input its level is low (log 3), a word counts as captured
when its last capture fell before the end of the record (log 23), and where a management operation cut the attempt short that record is
a free value (log 2). -/
def Obligations.CapturedWords : Prop :=
  (∀ (s : State) (l : LaneId) (din : List Bool) (i : SlotId), MemLaw s → PoolLaw s →
    (s.lane l).state = .shifting → (s.lane l).current = some i →
    ∃ t, exec (.endOfLastWord l din) s = .next t ∧
      (∀ j, j < capturedWords (s.slot i) →
        ((loadBytes (s.slot i).readCells (capturedWords (s.slot i) * (s.slot i).wordBytes) t.mem).drop
            (j * (s.slot i).wordBytes)).take (s.slot i).wordBytes =
          beBytes (s.slot i).wordBytes (capturedWord (s.slotRoute i) (s.slot i) din j)) ∧
      (∀ a, a / 32 ∉ (s.slot i).readCells → readByte t.mem a = readByte s.mem a)) ∧
  (∀ (s : State) (i : SlotId), MemLaw s → PoolLaw s →
    let size := (s.slot i).wordBytes
    let din := Config.strayRecord s.draws
    let n := wordsCapturedBy (s.slotRoute i) (s.slot i) din.length
    let t := strayCaptures i s
    let after := loadBytes (s.slot i).readCells (capturedWords (s.slot i) * size) t.mem
    t = { s with mem := t.mem, draws := s.draws + 1 } ∧
    n ≤ capturedWords (s.slot i) ∧
    (∀ j, j < n → (after.drop (j * size)).take size = beBytes size (capturedWord (s.slotRoute i) (s.slot i) din j)) ∧
    after.drop (n * size) = (loadBytes (s.slot i).readCells (capturedWords (s.slot i) * size) s.mem).drop (n * size) ∧
    (∀ a, a / 32 ∉ (s.slot i).readCells → readByte t.mem a = readByte s.mem a))

/-- An attempt that shifts (R71, R72, R73, R74, R90): bit period k begins half a bit period and k bit periods after the selects are
asserted, the clock is away from its idle level in the half the capture edge gives, the data output carries the bits of the words most
significant first, the selects of the engine stand low, and a captured word is made of the levels at its capture moments, half a bit
period and the sample delay after each bit period began; past the end of the record of the data input the level is low, the model's
choice (log 3). An attempt that runs to its end lasts as R75 gives. Outside SHIFTING the clock stands at the clock level, the data output
is low and, on a lane that obeys its law, every select is released (R66, R69, R80, R85). -/
def Obligations.ShiftedBits : Prop :=
  (∀ (s : State) (l : LaneId) (time : Nat), s.resetLine = false → (s.lane l).state ≠ .shifting →
    clockPin s l time = PinLevel.ofLevel (s.lane l).clockLevel ∧ dataPin s l time = some .low ∧
    (EngineLaw (s.lane l) → ∀ k, selectPin s l k = .high)) ∧
  (∀ (g : RouteConfig) (t : Slot), 2 ≤ g.clockDivisor → g.clockDivisor % 2 = 0 →
    attemptPeriods g t =
      if laneBits g t = 0 then g.clockDivisor
      else g.clockDivisor / 2 + laneBits g t * g.clockDivisor +
        (if capturedWords t = 0 then 0 else g.sampleDelay - g.clockDivisor / 2)) ∧
  ∀ (s : State) (l : LaneId) (i : SlotId), s.resetLine = false → (s.lane l).state = .shifting → (s.lane l).current = some i →
    let g := s.slotRoute i
    let t := s.slot i
    let d := g.clockDivisor
    2 ≤ d → d % 2 = 0 → 1 ≤ g.wordSize →
    (∀ k time, k < laneBits g t → time < d →
      clockPin s l (d / 2 + k * d + time) = PinLevel.ofLevel
        (if (g.captureEdge = .first ∧ d / 2 ≤ time) ∨ (g.captureEdge = .second ∧ time < d / 2) then g.idleLevel.other
          else g.idleLevel) ∧
      dataPin s l (d / 2 + k * d + time) = some
        (if ((wordsOut s g t).getD (k / g.wordSize) 0).testBit (g.wordSize - 1 - k % g.wordSize) then .high else .low)) ∧
    (∀ time, time < d / 2 ∨ d / 2 + laneBits g t * d ≤ time → clockPin s l time = PinLevel.ofLevel g.idleLevel) ∧
    (∀ k : Fin 4, selectPin s l k = if (s.lane l).selectsOut.getLsbD k.val then .low else .high) ∧
    (∀ (din : List Bool) (j b : Nat), b < g.wordSize →
      let first := if t.shape = .commandRead then t.writeCount * g.wordSize else 0
      (capturedWord g t din j).testBit (g.wordSize - 1 - b) =
        din.getD (d / 2 + (first + j * g.wordSize + b) * d + d / 2 + g.sampleDelay) false ∧
      capturedWord g t din j < 2 ^ g.wordSize)

/-- The end of a gap, and the release of a claim in YIELDED, bring the lane to IDLE, the end of a gap under a held and watched claim to
YIELDED (R67, R77, R80); in every other state a release only stands at the input (R78). -/
def Obligations.LaneReturnsToIdle : Prop :=
  (∀ (s : State) (l : LaneId), (s.lane l).state = .gap → (s.lane l).gapTimer.isSome = true →
    exec (.gapTimerExpiry l) s = .next { s with lanes := s.lanes.set l { s.lane l with
      gapTimer := none
      state := if (s.lane l).claimIn && (s.lane l).claimWatch then .yielded else .idle } }) ∧
  (∀ (s : State) (l : LaneId),
    exec (.claimRelease l) s = .next { s with lanes := s.lanes.set l { s.lane l with
      claimIn := false
      state := if (s.lane l).state = .yielded then .idle else (s.lane l).state } })

/-- CLAIM_ASSERT outside an attempt (R78): with claim watch off it only stands at the input; with it on, an IDLE or GAP lane is YIELDED and
its gap timer stops. -/
def Obligations.ClaimAssert : Prop :=
  ∀ (s : State) (l : LaneId) (din : List Bool),
    ((s.lane l).claimWatch = false ∨ (s.lane l).state = .off ∨ (s.lane l).state = .yielded →
      exec (.claimAssert l din) s = .next { s with lanes := s.lanes.set l { s.lane l with claimIn := true } }) ∧
    ((s.lane l).claimWatch = true → (s.lane l).state = .idle →
      exec (.claimAssert l din) s = .next { s with lanes := s.lanes.set l { s.lane l with claimIn := true, state := .yielded } }) ∧
    ((s.lane l).claimWatch = true → (s.lane l).state = .gap →
      exec (.claimAssert l din) s = .next { s with lanes := s.lanes.set l { s.lane l with
        claimIn := true, state := .yielded, gapTimer := none } })

/-- A claim that meets an attempt aborts it by contention (R78, R79, R82): counted, reported with its lane, the lane YIELDED with its
selects released; the slot returns to the head of its queue with RETRIES counted, or CONTENTION is its outcome. The words captured whole
before a shifting attempt was cut short stand in the read cells; which words those are is the model's reading (log 23): a word whose last
capture fell before the end of the record that the command brings (log 3). -/
def Obligations.ContentionAbort : Prop :=
  (∀ (s : State) (l : LaneId) (i : SlotId), (s.lane l).current = some i →
    let g := s.slotRoute i
    let u : State :=
      { s with
        lanes := s.lanes.set l { s.lane l with
          current := none, readyTimer := none, gapTimer := none, selectsOut := 0, state := .yielded }
        counters := (bumpSet g.counterSet .contentions 1 s).counters
        events := (setCondition .laneContention { s with events := { s.events with
          contentionSet := s.events.contentionSet ||| (1#8 <<< l.val) } }).events }
    contentionAbort l s =
      if (s.slot i).attempts ≤ g.retryLimit ∧ (s.slot i).orphan = false then
        { u with
          slots := s.slots.set i { s.slot i with state := .queued }
          queues := s.queues.set l (i :: s.queue l)
          counters := (bumpSet g.counterSet .retries 1 u).counters }
      else judgeFlow (decideOutcome i .contention u)) ∧
  (∀ (s : State) (l : LaneId) (din : List Bool) (i : SlotId), (s.lane l).claimWatch = true →
    (s.lane l).state = .readyWait ∨ (s.lane l).state = .shifting → (s.lane l).current = some i →
    exec (.claimAssert l din) s = .next (contentionAbort l { s with
      lanes := s.lanes.set l { s.lane l with claimIn := true }
      mem := if (s.lane l).state = .shifting then
          storeBytes (s.slot i).readCells 0
            (capturedBytes (s.slotRoute i) (s.slot i) din (wordsCapturedBy (s.slotRoute i) (s.slot i) din.length)) s.mem
        else s.mem }))

/-! ### The timers of the device -/

/-- The expiries of the refresh timer (R97, R98, R99), the inbound hold (R103), the lease (R131) and the repeat timer (R164). -/
def Obligations.TimerExpiries : Prop :=
  (∀ s : State, s.flow.refreshTimer.isSome = true → s.flow.state = .holding → s.receiver.link = .up → s.flow.settings.mode ≠ .off →
    exec .refreshTimerExpiry s = .next { s with flow := { s.flow with
      refreshTimer := some s.flow.settings.refreshInterval
      pendingHold :=
        match s.flow.settings.destination with
        | none => s.flow.pendingHold
        | some d => some
          { holdTime := s.flow.settings.holdTime, lanes := s.flow.heldLanes, poolFlag := s.flow.poolFlag, destination := d } } }) ∧
  (∀ s : State, exec .inboundHoldExpiry s = .next { s with trans := { s.trans with inboundHold := 0 } }) ∧
  (∀ s : State, s.agent.holder.isSome = true →
    exec .leaseExpiry s = .next { s with
      agent := { s.agent with holder := none, lease := none, remaining := 0 }
      events := (setCondition .lockExpired s).events }) ∧
  (∀ s : State, s.events.repeatTimer.isSome = true → s.events.state = .outstanding →
    exec .repeatTimerExpiry s = .next { s with events := { s.events with repeatTimer := none, request := true } })

/-! ### The trunk output -/

/-- OUTPUT_GRANT (R104, R118, R119, R164): with the output free, the hold request goes first, then the management response, then the
event request, then one of the two answer queues, alternating and neither while the inbound hold timer runs; the granted frame begins.
The model's reading: the grant of a repeat stops a repeat timer that a SET_EVENTS started while the repeat waited (log 18). -/
def Obligations.OutputGrant : Prop :=
  ∀ s : State, s.receiver.link = .up → s.trans.output = none → s.resetLine = false →
    let begins (q : Requester) (bytes : List Byte) : Transmitter :=
      { s.trans with output := some { requester := q, bytes := bytes }, lastMark := .start }
    let noneFirst := s.flow.pendingHold = none ∧ s.agent.buffer = none ∧ s.events.request = false
    (∀ h, s.flow.pendingHold = some h →
      exec .outputGrant s = .next { s with flow := { s.flow with pendingHold := none }, trans := begins .hold (holdFrame h) }) ∧
    (∀ r, s.flow.pendingHold = none → s.agent.buffer = some r →
      exec .outputGrant s = .next { s with trans := begins .mgmt (mgmtFrame r) }) ∧
    (∀ d, s.flow.pendingHold = none → s.agent.buffer = none → s.events.request = true → s.events.destination = some d →
      ∀ n, (if s.events.state = .outstanding then s.events.outstanding = some n else s.events.nextNumber = n) →
      exec .outputGrant s = .next { s with
        trans := begins (.event n) (buildFrame 11 d.source 0 d.stack
          ([n] ++ beBytes 2 s.events.setMembers.toNat ++ [s.events.contentionSet, s.events.timeoutSet]
            ++ [BitVec.ofNat 8 s.events.drained.length] ++ s.events.drained.map fun r => BitVec.ofNat 8 r.val))
        events := { s.events with
          conditions := s.events.conditions.map fun c => if c = .clear then .clear else .reported
          state := .outstanding, outstanding := some n, request := false, repeatTimer := none
          nextNumber := if s.events.state = .outstanding then s.events.nextNumber else s.events.nextNumber + 1 } }) ∧
    (∀ r rs, noneFirst → s.trans.inboundHold = 0 → s.trans.shortQueue = r :: rs →
      (s.completion = [] ∨ s.trans.lastServed = .completion) →
      exec .outputGrant s = .next { s with trans := { begins .record (recordFrame r) with lastServed := .short } }) ∧
    (∀ i is, noneFirst → s.trans.inboundHold = 0 → s.completion = i :: is →
      (s.trans.shortQueue = [] ∨ s.trans.lastServed = .short) →
      exec .outputGrant s = .next { s with
        trans := { begins (.slot i) (slotResponse s (s.slot i)) with lastServed := .completion } }) ∧
    (noneFirst → s.trans.inboundHold ≠ 0 ∨ (s.trans.shortQueue = [] ∧ s.completion = []) → exec .outputGrant s = .next s)

/-- FRAME_END (R120): FRAMES_SENT counts the frame, and its requester is completed: HOLDS_SENT or EVENTS_SENT counts it, the response
buffer empties, the record leaves, or the slot leaves the completion queue and is freed; when the event is still outstanding with the
frame's number its repeat timer starts, and with interval 0 stands still (R164, R165). -/
def Obligations.FrameEnd : Prop :=
  ∀ (s : State) (f : Sending), s.trans.output = some f → s.resetLine = false →
    let ended : State :=
      { s with
        trans := { s.trans with output := none, lastMark := .stop }
        counters := (bumpDevice .framesSent 1 s).counters }
    (f.requester = .hold →
      exec .frameEnd s = .next { ended with counters := (bumpDevice .holdsSent 1 (bumpDevice .framesSent 1 s)).counters }) ∧
    (f.requester = .mgmt → exec .frameEnd s = .next { ended with agent := { s.agent with buffer := none } }) ∧
    (∀ n, f.requester = .event n →
      exec .frameEnd s = .next { ended with
        counters := (bumpDevice .eventsSent 1 (bumpDevice .framesSent 1 s)).counters
        events := { s.events with
          repeatTimer :=
            if s.events.state = .outstanding ∧ s.events.outstanding = some n then
              if s.events.repeatInterval = 0 then none else some (s.events.repeatInterval * 1000)
            else s.events.repeatTimer } }) ∧
    (f.requester = .record →
      exec .frameEnd s = .next { ended with trans := { ended.trans with shortQueue := s.trans.shortQueue.tail } }) ∧
    (∀ i, f.requester = .slot i →
      exec .frameEnd s = .next (judgeFlow (freeSlots [i] { ended with completion := s.completion.erase i })))

/-- What the RESPONSE of a DONE slot carries (R55, R93, R116): its source, sequence and response stack; of outcome OK the attempts, the read
count and, byte by byte, what its read cells hold of the read words; of any other outcome read count 0 and nothing of the cells. -/
def Obligations.ResponseContents : Prop :=
  (∀ (s : State) (i : SlotId), PoolLaw s → (s.slot i).outcome = some .ok →
    let t := s.slot i
    ∃ words : List Byte,
      slotResponse s t = buildFrame 8 t.source t.sequence t.responseStack
        ([0, BitVec.ofNat 8 t.attempts] ++ beBytes 2 t.readCount ++ words) ∧
      words.length = t.readCount * t.wordBytes ∧
      ∀ k, k < words.length → ∃ c, t.readCells[k / 32]? = some c ∧ words[k]? = some (readByte s.mem (c * 32 + k % 32))) ∧
  (∀ (s : State) (m : Memory) (i : SlotId) (o : TxOutcome), (s.slot i).outcome = some o → o ≠ .ok →
    slotResponse { s with mem := m } (s.slot i) = slotResponse s (s.slot i) ∧
    slotResponse s (s.slot i) = buildFrame 8 (s.slot i).source (s.slot i).sequence (s.slot i).responseStack
      [BitVec.ofNat 8 o.code, BitVec.ofNat 8 (s.slot i).attempts, 0, 0])

/-! ### Management -/

/-- A request whose code names no operation is answered BAD_OPERATION, and one whose operands have not the length of its operation
BAD_LENGTH, before the lock is judged; neither changes anything else (R127, R173). -/
def Obligations.RequestMalformed : Prop :=
  ∀ (s : State) (q : MgmtRequest) (rest : List MgmtRequest), Taking s q rest →
    ((byteAt q.body 0 = 0 ∨ 20 < byteAt q.body 0) →
      exec .mgmtBadOperation s = .next (withAgent s (answered s q rest .badOperation []))) ∧
    (∀ row ∈ operationTable, byteAt q.body 0 = row.2.1 → q.body.length ≠ 4 + row.2.2 →
      exec row.1 s = .next (withAgent s (answered s q rest .badLength [])))

/-- The lock guards the ten operations that change the configuration, and a READ_COUNTERS that asks for clearing: from a source that does
not hold it they are answered NOT_HOLDER or LOCKED, naming the holder, and change nothing (R127, R128). -/
def Obligations.LockGuard : Prop :=
  ∀ (s : State) (q : MgmtRequest) (rest : List MgmtRequest), Taking s q rest → s.agent.holder ≠ some q.source →
    ∀ row ∈ operationTable, byteAt q.body 0 = row.2.1 → q.body.length = 4 + row.2.2 →
      (row.1 ∈ lockedCommands ∨ (row.1 = .readCounters ∧ byteAt q.body 5 ≠ 0)) →
      exec row.1 s = .next (withAgent s (match s.agent.holder with
        | none => answered s q rest .notHolder []
        | some h => answered s q rest .locked [BitVec.ofNat 8 h.val]))

/-- LOCK grants a free lock or renews the requester's own with the given lease, and is LOCKED while another source holds it; a lease out of
range is BAD_VALUE (R129). UNLOCK frees the lock of its holder, and is NOT_HOLDER from any other source (R130). -/
def Obligations.LockAndUnlock : Prop :=
  ∀ (s : State) (q : MgmtRequest) (rest : List MgmtRequest), Taking s q rest →
    (∀ lease : Nat, lease < 65536 → Carries q 1 (beBytes 2 lease) →
      ((lease < 100 ∨ 60000 < lease) → exec .lock s = .next (withAgent s (answered s q rest .badValue []))) ∧
      (100 ≤ lease → lease ≤ 60000 → (s.agent.holder = none ∨ s.agent.holder = some q.source) →
        exec .lock s = .next (withAgent s ({ answered s q rest .done ([BitVec.ofNat 8 q.source.val, 0] ++ beBytes 2 lease) with
            holder := some q.source, lease := some lease, remaining := lease * 1000 }))) ∧
      (∀ h, 100 ≤ lease → lease ≤ 60000 → s.agent.holder = some h → h ≠ q.source →
        exec .lock s = .next (withAgent s (answered s q rest .locked [BitVec.ofNat 8 h.val])))) ∧
    (Carries q 2 [] →
      exec .unlock s = .next (withAgent s (if s.agent.holder = some q.source then
          { answered s q rest .done [] with holder := none, lease := none, remaining := 0 }
        else answered s q rest .notHolder [])))

/-- SET_DEVICE from the holder stores the three settings when each is in range, and react off sets the inbound hold timer to 0; otherwise
it is BAD_VALUE and changes nothing (R131, R134, R135). -/
def Obligations.SetDevice : Prop :=
  ∀ (s : State) (q : MgmtRequest) (rest : List MgmtRequest) (lease maxFrame label : Nat) (react : Byte),
    Taking s q rest → Holds s q lease → maxFrame < 65536 → label < 65536 →
    Carries q 4 (beBytes 2 maxFrame ++ beBytes 2 label ++ [react]) →
    if 64 ≤ maxFrame ∧ maxFrame ≤ 1040 ∧ 1 ≤ label ∧ label ≤ 4094 ∧ (react = 0 ∨ react = 1) then
      exec .setDevice s = .next { s with
        agent := { renewed s q rest lease (beBytes 2 maxFrame ++ beBytes 2 label ++ [react]) with
          maxFrame := maxFrame, replyLabel := label, react := decide (react = 1) }
        trans := { s.trans with inboundHold := if react = 0 then 0 else s.trans.inboundHold } }
    else exec .setDevice s = .next (withAgent s (answered s q rest .badValue []))

/-- The operations that read, from any source: READ_DEVICE, READ_FLOW and READ_TRANSACTIONS are DONE with their records; READ_ROUTE,
FIND_ROUTE and READ_LANE are DONE for an index in range or a label some entry holds; none changes anything but the agent (R136, R137,
R140, R142, R144). -/
def Obligations.ReadsAnswer : Prop :=
  ∀ (s : State) (q : MgmtRequest) (rest : List MgmtRequest), Taking s q rest →
    (Carries q 3 [] → exec .readDevice s = .next (withAgent s (answered s q rest .done (deviceRecord s)))) ∧
    (Carries q 17 [] → exec .readFlow s = .next (withAgent s (answered s q rest .done
      (flowBlock s.flow.settings ++ flowReply s.flow ++ beBytes 2 s.freeCells ++ beBytes 2 s.trans.inboundHold)))) ∧
    (Carries q 14 [] → exec .readTransactions s = .next (withAgent s (answered s q rest .done
      (BitVec.ofNat 8 (liveSlots s).length :: (liveSlots s).flatMap (transactionRecord s))))) ∧
    (∀ n : Byte, Carries q 5 [n] → exec .readRoute s = .next (withAgent s
      (if h : n.toNat < 128 then answered s q rest .done (routeRecord s ⟨n.toNat, h⟩) else answered s q rest .badIndex []))) ∧
    (∀ label : Nat, label < 65536 → Carries q 6 (beBytes 2 label) → exec .findRoute s = .next (withAgent s
      (if 4095 < label then answered s q rest .badValue []
      else match lookup label s with
        | none => answered s q rest .badIndex []
        | some r => answered s q rest .done (routeRecord s r)))) ∧
    (∀ n : Byte, Carries q 11 [n] → exec .readLane s = .next (withAgent s
      (if h : n.toNat < 8 then answered s q rest .done (laneReply s ⟨n.toNat, h⟩ ++ [currentByte (s.lane ⟨n.toNat, h⟩)])
      else answered s q rest .badIndex [])))

/-- WRITE_ROUTE from the holder, judged in the order of R10: the index, the entry checks of R11, the entry's state, the label; one that
passes replaces the configuration and leaves the entry CLOSED, and any other changes nothing (R10, R11, R12, R13). -/
def Obligations.WriteRoute : Prop :=
  ∀ (s : State) (q : MgmtRequest) (rest : List MgmtRequest) (lease : Nat) (n z : Byte) (g : RouteConfig) (block : List Byte),
    Taking s q rest → Holds s q lease → block.length = 34 → Carries q 7 (n :: z :: block) →
    (128 ≤ n.toNat → exec .writeRoute s = .next (withAgent s (answered s q rest .badIndex []))) ∧
    (∀ r : RouteId, r.val = n.toNat →
      ((readConfig block = none ∨ (readConfig block = some g ∧ ¬ EntryValid g)) →
        exec .writeRoute s = .next (withAgent s (answered s q rest .badEntry []))) ∧
      (readConfig block = some g → EntryValid g →
        ((s.route r).state = .opened ∨ (s.route r).state = .draining →
          exec .writeRoute s = .next (withAgent s (answered s q rest .wrongState []))) ∧
        ((s.route r).state = .empty ∨ (s.route r).state = .closed →
          if ∃ k, k ≠ r ∧ (s.route k).state ≠ .empty ∧ (s.route k).config.label = g.label then
            exec .writeRoute s = .next (withAgent s (answered s q rest .labelInUse []))
          else
            exec .writeRoute s = .next { s with
              agent := renewed s q rest lease [n, 1]
              routes := s.routes.set r { s.route r with config := g, state := .closed } })))

/-- The table of the route states (R14, R139): what OPEN_ROUTE, DRAIN_ROUTE and DELETE_ROUTE from the holder do to an entry in each state,
and BAD_INDEX above 127. -/
def Obligations.RouteStates : Prop :=
  ∀ (s : State) (q : MgmtRequest) (rest : List MgmtRequest) (lease : Nat) (n : Byte),
    Taking s q rest → Holds s q lease →
    (∀ row ∈ [(Instr.openRoute, 8), (Instr.drainRoute, 9), (Instr.deleteRoute, 10)], Carries q row.2 [n] → 128 ≤ n.toNat →
      exec row.1 s = .next (withAgent s (answered s q rest .badIndex []))) ∧
    (∀ r : RouteId, r.val = n.toNat →
      (Carries q 8 [n] → exec .openRoute s = .next
        (if (s.route r).state = .closed then
          { s with
            agent := renewed s q rest lease [n, 2, BitVec.ofNat 8 (s.route r).inUse]
            routes := s.routes.set r { s.route r with state := .opened } }
        else { s with agent := answered s q rest .wrongState [] })) ∧
      (Carries q 9 [n] → exec .drainRoute s = .next
        (if (s.route r).state = .opened then
          if (s.route r).inUse = 0 then
            { s with
              agent := renewed s q rest lease [n, 1, 0]
              routes := s.routes.set r { s.route r with state := .closed }
              events := (setCondition .drainDone { s with events := { s.events with
                drained := if r ∈ s.events.drained then s.events.drained else s.events.drained ++ [r] } }).events }
          else
            { s with
              agent := renewed s q rest lease [n, 3, BitVec.ofNat 8 (s.route r).inUse]
              routes := s.routes.set r { s.route r with state := .draining } }
        else { s with agent := answered s q rest .wrongState [] })) ∧
      (Carries q 10 [n] → exec .deleteRoute s = .next
        (if (s.route r).state = .closed then
          { s with
            agent := renewed s q rest lease [n, 0, 0]
            routes := s.routes.set r RouteEntry.powerOn }
        else { s with agent := answered s q rest .wrongState [] })))

/-- SET_LANE with enabled yes (R86, R141): an OFF lane enters IDLE, or YIELDED under a held and watched claim; on an enabled lane the new
settings are stored, claim watch off in YIELDED brings the lane to IDLE, and claim watch on under a held claim acts as its assertion. An
index above 7 is BAD_INDEX, and a flag that is neither 0 nor 1 BAD_VALUE. The model's choice: which words a shifting attempt so aborted
had captured is open (log 2, CapturedWords). -/
def Obligations.SetLaneEnable : Prop :=
  ∀ (s : State) (q : MgmtRequest) (rest : List MgmtRequest) (lease : Nat) (n en watch gap : Byte),
    Taking s q rest → Holds s q lease → Carries q 12 [n, en, watch, gap] →
    (8 ≤ n.toNat → exec .setLane s = .next (withAgent s (answered s q rest .badIndex []))) ∧
    (n.toNat < 8 → 1 < en.toNat ∨ 1 < watch.toNat → exec .setLane s = .next (withAgent s (answered s q rest .badValue []))) ∧
    (∀ l : LaneId, l.val = n.toNat → en = 1 → watch = 0 ∨ watch = 1 →
      let e : LaneEngine := { s.lane l with enabled := true, claimWatch := decide (watch = 1), gap := gap.toNat }
      let stored (e : LaneEngine) : State := { s with lanes := s.lanes.set l e }
      let done (u : State) : Host.Outcome State Fault Refusal :=
        .next { u with agent := renewed s q rest lease (laneReply u l) }
      ((s.lane l).enabled = false →
        exec .setLane s = done (stored { e with state := if (s.lane l).claimIn = true ∧ watch = 1 then .yielded else .idle })) ∧
      ((s.lane l).enabled = true → (s.lane l).claimWatch = true → watch = 0 → (s.lane l).state = .yielded →
        exec .setLane s = done (stored { e with state := .idle })) ∧
      ((s.lane l).enabled = true → (s.lane l).claimWatch = false → watch = 1 → (s.lane l).claimIn = true →
        ((s.lane l).state = .idle → exec .setLane s = done (stored { e with state := .yielded })) ∧
        ((s.lane l).state = .gap → exec .setLane s = done (stored { e with state := .yielded, gapTimer := none })) ∧
        ((s.lane l).state = .readyWait → exec .setLane s = done (contentionAbort l (stored e))) ∧
        (∀ i, (s.lane l).state = .shifting → (s.lane l).current = some i →
          exec .setLane s = done (contentionAbort l
            { stored e with mem := (strayCaptures i s).mem, draws := (strayCaptures i s).draws }))) ∧
      ((s.lane l).enabled = true →
        ((s.lane l).claimWatch = decide (watch = 1) ∨ (s.lane l).claimWatch = true ∧ (s.lane l).state ≠ .yielded ∨
          (s.lane l).claimWatch = false ∧ (s.lane l).claimIn = false) →
        exec .setLane s = done (stored e)))

/-- A lane flush: RESET_LANE of a lane that is not OFF, and a SET_LANE that disables an enabled lane (R52, R84, R85, R141). Every slot of
the lane, the current one first and then the queued ones in order, gets the outcome LANE_RESET or LANE_OFF and joins the completion
queue in that order, an orphan apart, which is freed; the queue is empty; the Flow Controller judges the counts this leaves; no other
slot, queue or lane is touched, and no byte of the pool outside the read cells of a stopped attempt. -/
def Obligations.LaneFlush : Prop :=
  ∀ (s : State) (q : MgmtRequest) (rest : List MgmtRequest) (lease : Nat) (n watch gap : Byte) (l : LaneId),
    MemLaw s → LaneLaw s → SlotLaw s → PoolLaw s → Taking s q rest → Holds s q lease → l.val = n.toNat → (watch = 0 ∨ watch = 1) →
    let members := (s.lane l).current.toList ++ s.queue l
    let gone := freeSlots (members.filter fun i => (s.slot i).orphan) s
    let flushed (o : TxOutcome) (t : State) : Prop :=
      (∀ i ∈ members, t.slot i = if (s.slot i).orphan then Slot.freed else { s.slot i with state := .done, outcome := some o }) ∧
      (∀ i, i ∉ members → t.slot i = s.slot i) ∧
      t.completion = s.completion ++ members.filter (fun i => !(s.slot i).orphan) ∧
      (∀ m, t.queue m = if m = l then [] else s.queue m) ∧
      (∀ m, m ≠ l → t.lane m = s.lane m) ∧
      (∀ k, t.setCount k .doneFail = s.setCount k .doneFail +
        BitVec.ofNat 40 (members.filter fun i => (s.slotRoute i).counterSet = some k).length) ∧
      (∀ k c, c ≠ .doneFail → t.setCount k c = s.setCount k c) ∧ (∀ c, t.deviceCount c = s.deviceCount c) ∧
      (∀ a, (∀ i, (s.lane l).state = .shifting → (s.lane l).current = some i → a / 32 ∉ (s.slot i).readCells) →
        readByte t.mem a = readByte s.mem a) ∧
      t = { judgeFlow { s with
          slots := t.slots, queues := t.queues, completion := t.completion, lanes := t.lanes, counters := t.counters
          freeCells := gone.freeCells, routes := gone.routes, events := gone.events, mem := t.mem, draws := t.draws } with
        agent := renewed s q rest lease (laneReply t l) }
    (Carries q 13 [n] → (s.lane l).state ≠ .off → ∃ t, exec .resetLane s = .next t ∧ flushed .laneReset t ∧
      t.lane l = { s.lane l with
        current := none, readyTimer := none, gapTimer := none, selectsOut := 0
        state := if (s.lane l).claimIn && (s.lane l).claimWatch then .yielded else .idle }) ∧
    (Carries q 13 [n] → (s.lane l).state = .off →
      exec .resetLane s = .next (withAgent s (renewed s q rest lease (laneReply s l)))) ∧
    (Carries q 12 [n, 0, watch, gap] → (s.lane l).enabled = true → ∃ t, exec .setLane s = .next t ∧ flushed .laneOff t ∧
      t.lane l = { s.lane l with
        enabled := false, claimWatch := decide (watch = 1), gap := gap.toNat, state := .off, clockLevel := .low
        current := none, readyTimer := none, gapTimer := none, selectsOut := 0 }) ∧
    (Carries q 12 [n, 0, watch, gap] → (s.lane l).enabled = false → ∃ t, exec .setLane s = .next t ∧
      t = { s with lanes := s.lanes.set l { s.lane l with claimWatch := decide (watch = 1), gap := gap.toNat }, agent := t.agent } ∧
      t.agent = renewed s q rest lease (laneReply t l))

/-- READ_COUNTERS copies every counter of its target, from any source; with clear yes from the holder it zeroes them in the same event,
and nothing else (R143, R156, R157). A target out of range is BAD_INDEX, before the clear operand is judged. -/
def Obligations.ReadCounters : Prop :=
  ∀ (s : State) (q : MgmtRequest) (rest : List MgmtRequest) (lease : Nat) (n : Byte), Taking s q rest →
    (Carries q 15 [n, 0] →
      (∀ k : SetId, k.val = n.toNat → exec .readCounters s = .next (withAgent s
        (answered s q rest .done (n :: counterRecord s.counters.sets[k].toList)))) ∧
      (n = 255 → exec .readCounters s = .next (withAgent s (answered s q rest .done (n :: counterRecord s.counters.device.toList)))) ∧
      (32 ≤ n.toNat → n ≠ 255 → exec .readCounters s = .next (withAgent s (answered s q rest .badIndex [])))) ∧
    (Carries q 15 [n, 1] → Holds s q lease →
      (∀ k : SetId, k.val = n.toNat → exec .readCounters s = .next { s with
        agent := renewed s q rest lease (n :: counterRecord s.counters.sets[k].toList)
        counters := { s.counters with sets := s.counters.sets.set k (Vector.replicate 15 0) } }) ∧
      (n = 255 → exec .readCounters s = .next { s with
        agent := renewed s q rest lease (n :: counterRecord s.counters.device.toList)
        counters := { s.counters with device := Vector.replicate 14 0 } })) ∧
    (∀ clear : Byte, Carries q 15 [n, clear] → Holds s q lease →
      (32 ≤ n.toNat → n ≠ 255 → exec .readCounters s = .next (withAgent s (answered s q rest .badIndex []))) ∧
      (1 < clear.toNat → n.toNat < 32 ∨ n = 255 → exec .readCounters s = .next (withAgent s (answered s q rest .badValue []))))

/-- SET_FLOW from the holder (R100): a mode code that names none, a destination out of range and settings out of range are BAD_VALUE;
settings in range are stored, the flag and the set are judged anew under them, and the state, the request and the refresh timer are as
the table of R100 gives. The model's reading: a pending request stands where CLEAR stays CLEAR, with the mode not OFF and a destination
(log 17). -/
def Obligations.SetFlow : Prop :=
  ∀ (s : State) (q : MgmtRequest) (rest : List MgmtRequest) (lease : Nat) (operands : List Byte),
    Taking s q rest → Holds s q lease → operands.length = 19 → Carries q 16 operands →
    (2 < byteAt operands 0 ∨ SpellsNone (operands.drop 11) →
      exec .setFlow s = .next (withAgent s (answered s q rest .badValue []))) ∧
    (∀ g : FlowSettings, SpellsFlow operands g → ¬ FlowRanges g →
      exec .setFlow s = .next (withAgent s (answered s q rest .badValue []))) ∧
    (∀ g : FlowSettings, FlowLaw s → SpellsFlow operands g → FlowRanges g → ∃ t, exec .setFlow s = .next t ∧
      t = { s with flow := t.flow, events := t.events, agent := renewed s q rest lease (flowReply t.flow) } ∧
      t.flow.settings = g ∧
      t.events = (if t.flow.poolFlag = true ∧ s.flow.poolFlag = false then (setCondition .poolLow s).events else s.events) ∧
      (t.flow.poolFlag = if s.freeCells ≤ g.poolHold then true else if g.poolRelease ≤ s.freeCells then false else s.flow.poolFlag) ∧
      (∀ l : LaneId, t.flow.heldLanes.getLsbD l =
        if g.laneHold ≤ s.occupancy l then true else if s.occupancy l ≤ g.laneRelease then false else s.flow.heldLanes.getLsbD l) ∧
      (t.flow.state = .holding ↔
        g.mode ≠ .off ∧ (t.flow.poolFlag = true ∨ ∃ l : LaneId, t.flow.heldLanes.getLsbD l = true)) ∧
      t.flow.refreshTimer = (if t.flow.state = .holding ∧ s.receiver.link = .up then some g.refreshInterval else none) ∧
      (g.mode = .off ∨ g.destination = none → t.flow.pendingHold = none) ∧
      (∀ d, g.destination = some d → t.flow.state = .holding → s.receiver.link = .up → t.flow.pendingHold = some
        { holdTime := g.holdTime, lanes := t.flow.heldLanes, poolFlag := t.flow.poolFlag, destination := d }) ∧
      (∀ d, g.destination = some d → g.mode = .holdRelease → s.flow.state = .holding → t.flow.state = .clear → s.receiver.link = .up →
        t.flow.pendingHold = some { holdTime := 0, lanes := 0, poolFlag := false, destination := d }) ∧
      (g.mode = .holdOnly → s.flow.state = .holding → t.flow.state = .clear → t.flow.pendingHold = none) ∧
      (g.mode ≠ .off → g.destination.isSome = true → s.flow.state = .clear → t.flow.state = .clear →
        t.flow.pendingHold = s.flow.pendingHold))

/-- SET_EVENTS from the holder (R145, R165): the settings are stored; a new destination ends the event in progress and marks every set
condition unreported; an unchanged one lets an outstanding event go on with the new interval, and withdraws a request that the new mask
leaves without cause; then a request is judged (R163). A mask above the nine conditions and a destination out of range are BAD_VALUE.
The model's reading: the repeat timer restarts also while a repeat request is pending (log 18). -/
def Obligations.SetEvents : Prop :=
  ∀ (s : State) (q : MgmtRequest) (rest : List MgmtRequest) (lease : Nat) (operands : List Byte),
    Taking s q rest → Holds s q lease → operands.length = 12 → Carries q 18 operands →
    let mask := fieldAt operands 0 2
    let interval := fieldAt operands 10 2
    (511 < mask ∨ SpellsNone (operands.drop 2) → exec .setEvents s = .next (withAgent s (answered s q rest .badValue []))) ∧
    ∀ dest : Option Destination, mask ≤ 511 → Spells (operands.drop 2) dest →
    let e : EventUnit := { s.events with mask := BitVec.ofNat 9 mask, destination := dest, repeatInterval := interval }
    let settled (e' : EventUnit) : Host.Outcome State Fault Refusal :=
      .next { s with
        agent := renewed s q rest lease (beBytes 2 mask ++ destinationBytes dest ++ beBytes 2 interval)
        events :=
          if e'.state = .quiet ∧ dest.isSome = true ∧ s.receiver.link = .up ∧ e'.hasNews = true then
            { e' with state := .requested, request := true }
          else e' }
    (dest ≠ s.events.destination →
      exec .setEvents s = settled { e with
        conditions := s.events.conditions.map fun c => if c = .clear then .clear else .unreported
        state := .quiet, outstanding := none, request := false, repeatTimer := none }) ∧
    (dest = s.events.destination →
      (s.events.state = .quiet → exec .setEvents s = settled e) ∧
      (s.events.state = .requested →
        exec .setEvents s = settled (if e.hasNews then e else { e with state := .quiet, request := false })) ∧
      (∀ number, s.events.state = .outstanding → s.events.outstanding = some number →
        ((∃ f, s.trans.output = some f ∧ f.requester = .event number) → exec .setEvents s = settled e) ∧
        ((∀ f, s.trans.output = some f → f.requester ≠ .event number) →
          exec .setEvents s = settled { e with
            repeatTimer := if interval = 0 then none else some (interval * 1000) })))

/-- ACK_EVENTS (R146, R166): its three checks in their order; then each named condition that is set and reported is cleared, with its
lane set or drained list, the outstanding event ends, and a new request is judged under the settings, which stand. -/
def Obligations.AckEvents : Prop :=
  ∀ (s : State) (q : MgmtRequest) (rest : List MgmtRequest) (number z : Byte) (named : Nat),
    Taking s q rest → named < 65536 → Carries q 19 ([number, z] ++ beBytes 2 named) →
    (511 < named → exec .ackEvents s = .next (withAgent s (answered s q rest .badValue []))) ∧
    (named ≤ 511 → (∀ d, s.events.destination = some d → d.source ≠ q.source) →
      exec .ackEvents s = .next (withAgent s (answered s q rest .wrongSource []))) ∧
    (∀ d, named ≤ 511 → s.events.destination = some d → d.source = q.source →
      (s.events.outstanding ≠ some number → exec .ackEvents s = .next (withAgent s (answered s q rest .badValue []))) ∧
      (s.events.outstanding = some number → ∃ t, exec .ackEvents s = .next t ∧
        let clears (c : Condition) : Prop := named.testBit c.index.val = true ∧ s.events.cond c = .reported
        t = { s with events := t.events, agent := answered s q rest .done (beBytes 2 t.events.setMembers.toNat) } ∧
        t.events = { s.events with
          conditions := t.events.conditions, contentionSet := t.events.contentionSet, timeoutSet := t.events.timeoutSet
          drained := t.events.drained, state := t.events.state, request := t.events.request
          outstanding := none, repeatTimer := none } ∧
        (∀ c, (clears c → t.events.cond c = .clear) ∧ (¬ clears c → t.events.cond c = s.events.cond c)) ∧
        (clears .laneContention → t.events.contentionSet = 0) ∧
        (¬ clears .laneContention → t.events.contentionSet = s.events.contentionSet) ∧
        (clears .readyTimeout → t.events.timeoutSet = 0) ∧ (¬ clears .readyTimeout → t.events.timeoutSet = s.events.timeoutSet) ∧
        (clears .drainDone → t.events.drained = []) ∧ (¬ clears .drainDone → t.events.drained = s.events.drained) ∧
        (if s.receiver.link = .up ∧ t.events.hasNews = true then t.events.state = .requested ∧ t.events.request = true
          else t.events.state = .quiet ∧ t.events.request = false)))

/-- DEVICE_RESET from the holder (R147, R148, R88, R107, R122): every block takes its power-on values, a frame being sent is cut off, with
no delimiter sent while the reset line is asserted (R123), and the DONE response stands in the buffer under the reply stack formed before
the reset. The model's readings and choices: the whole Receiver stands, with synchronisation and a frame in reception (log 14); the levels
at the lane inputs are the board's (log 4); the bytes of the cells stand (log 5), but for the words a stopped attempt had captured, which
are open (log 2); the Time Base is 0 (log 8); the queue stands (log 7). -/
def Obligations.DeviceReset : Prop :=
  ∀ (s : State) (q : MgmtRequest) (rest : List MgmtRequest), Taking s q rest → s.agent.holder = some q.source → Carries q 20 [] →
    ∃ t, exec .deviceReset s = .next t ∧
      t = { State.reset with
        lanes := t.lanes, mem := t.mem, draws := t.draws
        receiver := s.receiver
        trans := { Transmitter.powerOn with
          lastMark := if s.trans.output.isSome = true ∧ s.resetLine = false then .abort else s.trans.lastMark }
        agent := { Agent.powerOn with buffer := (answered s q rest .done []).buffer }
        resetLine := s.resetLine
        pending := s.pending } ∧
      (∀ l, t.lane l = { LaneEngine.powerOn with readyIn := (s.lane l).readyIn, claimIn := (s.lane l).claimIn }) ∧
      ((∀ l, (s.lane l).state ≠ .shifting) → t.mem = s.mem ∧ t.draws = s.draws) ∧
      (MemLaw s → PoolLaw s → ∀ a,
        (∀ l i, (s.lane l).state = .shifting → (s.lane l).current = some i → a / 32 ∉ (s.slot i).readCells) →
        readByte t.mem a = readByte s.mem a)

/-! ### Counters and formats -/

/-- A counter wraps at 40 bits, and an addition touches that counter alone (R154). -/
def Obligations.CounterWrap : Prop :=
  (∀ (s : State) (k : SetId) (c : SetCounter) (n : Nat), n < 1099511627776 →
    ((bumpSet (some k) c n s).setCount k c).toNat =
      (if (s.setCount k c).toNat + n ≤ 1099511627775 then (s.setCount k c).toNat + n
        else (s.setCount k c).toNat + n - 1099511627776) ∧
    (∀ j d, j ≠ k ∨ d ≠ c → (bumpSet (some k) c n s).setCount j d = s.setCount j d) ∧
    (∀ d, (bumpSet (some k) c n s).deviceCount d = s.deviceCount d) ∧
    bumpSet (some k) c n s = { s with counters := (bumpSet (some k) c n s).counters }) ∧
  (∀ (s : State) (c : DeviceCounter) (n : Nat), n < 1099511627776 →
    ((bumpDevice c n s).deviceCount c).toNat =
      (if (s.deviceCount c).toNat + n ≤ 1099511627775 then (s.deviceCount c).toNat + n
        else (s.deviceCount c).toNat + n - 1099511627776) ∧
    (∀ d, d ≠ c → (bumpDevice c n s).deviceCount d = s.deviceCount d) ∧
    (∀ j d, (bumpDevice c n s).setCount j d = s.setCount j d) ∧
    bumpDevice c n s = { s with counters := (bumpDevice c n s).counters })

/-- The histogram of lengths (R151): the decision of outcome OK increments exactly the bucket whose range holds the sum of the counts, and
a failure increments none. -/
def Obligations.LengthBuckets : Prop :=
  ∀ (s : State) (i : SlotId) (o : TxOutcome) (k : SetId), (s.slotRoute i).counterSet = some k →
    let sum := (s.slot i).writeCount + (s.slot i).readCount
    sum ≤ 512 →
    ∀ row ∈ bucketTable, (decideOutcome i o s).setCount k row.1 =
      if o = .ok ∧ row.2.1 ≤ sum ∧ sum ≤ row.2.2 then s.setCount k row.1 + 1 else s.setCount k row.1

/-- What WRITE_ROUTE reads from the configuration block that READ_ROUTE gives of a valid entry is that entry, with every field at every
value the checks of R11 allow (R171, section 10.5). -/
def Obligations.ConfigRoundTrip : Prop :=
  ∀ g : RouteConfig, EntryValid g → g.readyTimeout ≤ 65535 →
    (configBytes g).length = 34 ∧ readConfig (configBytes g) = some g

/-! ### Laws that every step keeps -/

/-- Every step keeps the cell memory in its canonical form. -/
def Obligations.MemoryLawKept : Prop := ∀ s t : State, MemLaw s → step s = .next t → MemLaw t

/-- Every step keeps the law of label uniqueness (R8). -/
def Obligations.LabelLawKept : Prop := ∀ s t : State, LabelLaw s → step s = .next t → LabelLaw t

/-- Every step keeps the law of the lane engines (R65, R66, R67, R78). -/
def Obligations.LaneLawKept : Prop := ∀ s t : State, LaneLaw s → step s = .next t → LaneLaw t

/-- Every step keeps the law of the lock, the queues of the agent and the Transmitter, the device settings and the inbound hold. -/
def Obligations.AgentLawKept : Prop := ∀ s t : State, AgentLaw s → step s = .next t → AgentLaw t

/-- Every step keeps the law of the Event Unit (R160, R163, R167). -/
def Obligations.EventLawKept : Prop := ∀ s t : State, EventLaw s → step s = .next t → EventLaw t

/-- Every step keeps the law of the trunk port (R23, R57, R109). -/
def Obligations.OutputLawKept : Prop := ∀ s t : State, OutputLaw s → step s = .next t → OutputLaw t

/-- Every step keeps the law of the Flow Controller (R96 to R101), where the law of the lane engines holds. -/
def Obligations.FlowLawKept : Prop := ∀ s t : State, FlowLaw s → LaneLaw s → step s = .next t → FlowLaw t

/-- Every step keeps the law of the transaction table (R5, R31, R33, R46, R47, R48, R53, R56, R61, R66, R82, R91), where the laws of the
lane engines and of the trunk output hold. -/
def Obligations.TableLawKept : Prop :=
  ∀ s t : State, TableLaw s → LaneLaw s → OutputLaw s → step s = .next t → TableLaw t

/-- Every law holds after power-on. -/
def Obligations.LawsAtReset : Prop :=
  MemLaw State.reset ∧ LabelLaw State.reset ∧ LaneLaw State.reset ∧ AgentLaw State.reset ∧ EventLaw State.reset ∧
  OutputLaw State.reset ∧ FlowLaw State.reset ∧ TableLaw State.reset
end

