-- ==== Sys2Proof/Laws/Admission.lean ====
section
/-!
SUPPORT. What the lookups of Admission find, which check decides on a request, and which cells an admission reserves.
-/
namespace Sys2Proof.Machine

open Sys2Proof.Safety

variable {s : State}

/-! ### Lookups -/

/-- The entry a label finds is not EMPTY and carries the label (R7). -/
theorem lookup_some {label : Nat} {r : RouteId} (h : lookup label s = some r) :
    (s.route r).state ≠ .empty ∧ (s.route r).config.label = label := by
  have := List.find?_some h
  simpa using this

/-- A label finds no entry exactly when every entry that carries it is EMPTY (R7). -/
theorem lookup_none_iff {label : Nat} : lookup label s = none ↔ ∀ r, (s.route r).state ≠ .empty → (s.route r).config.label ≠ label := by
  simp [lookup]

/-- The slot that holds a pair is not FREE and has that source and sequence (R31). -/
theorem findPair_some {source : Source} {sequence : BitVec 16} {i : SlotId} (h : findPair source sequence s = some i) :
    (s.slot i).state ≠ .free ∧ (s.slot i).source = source ∧ (s.slot i).sequence = sequence := by
  have := List.find?_some h
  simpa [Slot.live, and_assoc] using this

/-- Some slot holds a pair exactly when one that is not FREE has that source and sequence (R31). -/
theorem findPair_isSome_iff {source : Source} {sequence : BitVec 16} :
    (findPair source sequence s).isSome = true ↔
      ∃ i, (s.slot i).state ≠ .free ∧ (s.slot i).source = source ∧ (s.slot i).sequence = sequence := by
  simp [findPair, Slot.live, and_assoc]

/-- No slot is FREE exactly when none is found (R32). -/
theorem lowestFree_none_iff : lowestFree s = none ↔ ∀ i, (s.slot i).state ≠ .free := by
  simp [lowestFree]

/-- The slot found is FREE, and every slot below it is not (R32). -/
theorem lowestFree_some {i : SlotId} (h : lowestFree s = some i) : (s.slot i).state = .free ∧ ∀ j, j < i → (s.slot j).state ≠ .free := by
  obtain ⟨hi, as, bs, hl, hn⟩ := List.find?_eq_some_iff_append.1 h
  refine ⟨by simpa using hi, fun j hj => ?_⟩
  have hs : (as ++ i :: bs).Pairwise (· < ·) := hl ▸ List.pairwise_lt_finRange 64
  have hm : j ∈ as ++ i :: bs := hl ▸ List.mem_finRange j
  rcases List.mem_append.1 hm with hm | hm
  · simpa using hn j hm
  · rcases List.mem_cons.1 hm with rfl | hm
    · exact absurd hj (lt_irrefl _)
    · exact absurd hj (not_lt_of_gt (List.rel_of_pairwise_cons (List.pairwise_append.1 hs).2.1 hm))

/-- The FREE slot with the lowest index is the one found (R32). -/
theorem lowestFree_of {i : SlotId} (hi : (s.slot i).state = .free) (hn : ∀ j, j < i → (s.slot j).state ≠ .free) :
    lowestFree s = some i := by
  cases hl : lowestFree s with
  | none => exact absurd hi (lowestFree_none_iff.1 hl i)
  | some k =>
    obtain ⟨hk, hkn⟩ := lowestFree_some hl
    rcases lt_trichotomy k i with h | h | h
    · exact absurd hk (hn k h)
    · rw [h]
    · exact absurd hi (hkn i h)

/-! ### The checks -/

/-- The fits of a shape are those of R28. -/
theorem fitsShape_eq (g : Shape) (w r : Nat) : fitsShape g w r = shapeFits g w r := by
  cases g <;> simp only [fitsShape, shapeFits] <;> rw [Bool.eq_iff_iff] <;> simp

/-- The first refusal of a list of checks. -/
theorem firstOf_cons (p : Prop) [Decidable p] (r : RefusalReason) (l : List (Bool × RefusalReason)) :
    (((decide p, r) :: l).find? (·.1)).map (·.2) = if p then some r else (l.find? (·.1)).map (·.2) := by
  by_cases h : p <;> simp [h]

/-- The request passes or is refused by the first check that fails (R24): the model's order of the checks is the table's. -/
theorem judgeEntry_eq {f : InFrame} {k : RouteId} (hk : lookup (f.labels.headD 0) s = some k) :
    (∀ reason, judgeEntry f k s = .error reason → firstRefusal f s = some reason) ∧
    (∀ d, judgeEntry f k s = .ok d → firstRefusal f s = none ∧ lowestFree s = some d.slot ∧
      d.route = k ∧ d.writeCount = fieldAt f.body 0 2 ∧ d.readCount = fieldAt f.body 2 2) := by
  have he := (lookup_some hk).1
  have hp := @findPair_isSome_iff s f.source f.sequence
  have hl := @lowestFree_none_iff s
  unfold judgeEntry firstRefusal admissionChecks
  rw [hk]
  simp only [Option.getD_some, fitsShape_eq, firstOf_cons, List.find?_nil, Option.map_none, reduceCtorEq, if_false, ne_eq,
    Bool.not_eq_true]
  simp only [ne_eq] at hp hl
  cases hst : (s.route k).state with
  | empty => exact absurd hst he
  | closed => simp only [reduceCtorEq, not_false_eq_true, if_true, if_false]; exact ⟨fun _ h => by cases h; rfl, fun _ h => by cases h⟩
  | draining => simp only [reduceCtorEq, not_false_eq_true, if_true, if_false]; exact ⟨fun _ h => by cases h; rfl, fun _ h => by cases h⟩
  | opened =>
    simp only [reduceCtorEq, not_true_eq_false, if_false]
    by_cases h3 : (s.route k).config.permitted.getLsbD f.source.val = false
    · simp only [if_pos h3]; exact ⟨fun _ h => by cases h; rfl, fun _ h => by cases h⟩
    simp only [if_neg h3]
    by_cases h4 : f.body.length < 4
    · simp only [if_pos h4]; exact ⟨fun _ h => by cases h; rfl, fun _ h => by cases h⟩
    simp only [if_neg h4]
    by_cases h5 : shapeFits (s.route k).config.shape (fieldAt f.body 0 2) (fieldAt f.body 2 2) = false
    · simp only [if_pos h5]; exact ⟨fun _ h => by cases h; rfl, fun _ h => by cases h⟩
    simp only [if_neg h5]
    by_cases h6 : ¬ f.body.length = 4 + fieldAt f.body 0 2 * wordBytes (s.route k).config.wordSize
    · simp only [if_pos h6]; exact ⟨fun _ h => by cases h; rfl, fun _ h => by cases h⟩
    simp only [if_neg h6]
    by_cases h7 : (s.route k).config.maxWrite < fieldAt f.body 0 2 ∨ (s.route k).config.maxRead < fieldAt f.body 2 2
    · simp only [if_pos h7]; exact ⟨fun _ h => by cases h; rfl, fun _ h => by cases h⟩
    simp only [if_neg h7]
    by_cases h8 : (findPair f.source f.sequence s).isSome = true
    · simp only [if_pos h8, if_pos (hp.1 h8)]; exact ⟨fun _ h => by cases h; rfl, fun _ h => by cases h⟩
    simp only [if_neg h8, if_neg (fun h => h8 (hp.2 h))]
    cases h9 : lowestFree s with
    | none => simp only [if_pos (hl.1 h9)]; exact ⟨fun _ h => by cases h; rfl, fun _ h => by cases h⟩
    | some i =>
      have h9' : ¬ ∀ i, ¬ (s.slot i).state = .free := fun h => by rw [hl.2 h] at h9; cases h9
      simp only [if_neg h9']
      by_cases h10 : (s.lane (s.route k).config.lane).state = .off
      · simp only [if_pos h10]; exact ⟨fun _ h => by cases h; rfl, fun _ h => by cases h⟩
      simp only [if_neg h10]
      by_cases h11 : 16 ≤ s.occupancy (s.route k).config.lane
      · simp only [if_pos h11]; exact ⟨fun _ h => by cases h; rfl, fun _ h => by cases h⟩
      simp only [if_neg h11]
      by_cases h12 : s.freeCells < cellsNeeded (wordBytes (s.route k).config.wordSize) (fieldAt f.body 0 2) (fieldAt f.body 2 2)
      · simp only [if_pos h12]; exact ⟨fun _ h => by cases h; rfl, fun _ h => by cases h⟩
      simp only [if_neg h12]
      exact ⟨fun _ h => (nomatch h), fun _ h => by cases h; exact ⟨trivial, rfl, rfl, rfl, rfl⟩⟩

/-! ### Cells -/

/-- The cells picked are as many as asked for where enough are available, each once, and each available (R91). -/
theorem pickCells_spec (n draw : Nat) (avail : List Nat) (hn : avail.Nodup) (hlen : n ≤ avail.length) :
    (pickCells n draw avail).length = n ∧ (pickCells n draw avail).Nodup ∧ ∀ c ∈ pickCells n draw avail, c ∈ avail := by
  induction n generalizing draw avail with
  | zero => simp [pickCells]
  | succ n ih =>
    cases avail with
    | nil => simp at hlen
    | cons a rest =>
      have hpos : 0 < (a :: rest).length := by simp
      simp only [pickCells]
      generalize hc : (a :: rest).getD (Config.cellPick draw % (a :: rest).length) a = c
      have hmem : c ∈ a :: rest := by
        rw [← hc, List.getD_eq_getElem?_getD, List.getElem?_eq_getElem (Nat.mod_lt _ hpos), Option.getD_some]
        exact List.getElem_mem _
      have hl : n ≤ ((a :: rest).erase c).length := by
        rw [List.length_erase_of_mem hmem]; omega
      obtain ⟨h1, h2, h3⟩ := ih (draw + 1) _ (hn.erase c) hl
      refine ⟨by rw [List.length_cons, h1], List.nodup_cons.2 ⟨fun h => ?_, h2⟩, fun x hx => ?_⟩
      · exact absurd ((hn.mem_erase_iff).1 (h3 c h)).1 (fun h => h rfl)
      · rcases List.mem_cons.1 hx with rfl | hx
        · exact hmem
        · exact List.mem_of_mem_erase (h3 x hx)

theorem mem_freeCellList {c : Nat} : c ∈ freeCellList s ↔ c < 1024 ∧ c ∉ reservedCells s := by
  simp [freeCellList, reservedCells]

theorem freeCellList_nodup : (freeCellList s).Nodup := List.nodup_range.filter _

/-- Under the law of the pool as many cells are free as the count says (R91). -/
theorem freeCellList_length (h : PoolLaw s) : (freeCellList s).length = s.freeCells := by
  obtain ⟨h1, h2, h3, -⟩ := h
  have hp : (freeCellList s ++ reservedCells s).Perm (List.range 1024) := by
    refine (List.perm_ext_iff_of_nodup ?_ List.nodup_range).2 fun c => ?_
    · exact List.nodup_append.2 ⟨freeCellList_nodup, h2, fun a ha b hb hab => (mem_freeCellList.1 ha).2 (hab ▸ hb)⟩
    · rw [List.mem_append, mem_freeCellList, List.mem_range]
      constructor
      · rintro (h | h)
        · exact h.1
        · exact h3 c h
      · intro h
        by_cases hc : c ∈ reservedCells s
        · exact .inr hc
        · exact .inl ⟨h, hc⟩
  have := hp.length_eq
  rw [List.length_append, List.length_range] at this
  omega

end Sys2Proof.Machine
end

