-- ==== Sys2Proof/Laws/Bytes.lean ====
section
/-!
SUPPORT. Fields of bytes: a number written as bytes is read back (R171), wherever in a longer run of bytes it stands.
-/
namespace Sys2Proof.Machine

@[simp] theorem beBytes_length (k n : Nat) : (beBytes k n).length = k := by
  induction k with
  | zero => rfl
  | succ k ih => simp [beBytes, ih]

theorem beNat_append (xs ys : List Byte) : beNat (xs ++ ys) = beNat xs * 256 ^ ys.length + beNat ys := by
  have aux : ∀ (ys : List Byte) (a : Nat),
      ys.foldl (fun a b => a * 256 + b.toNat) a = a * 256 ^ ys.length + ys.foldl (fun a b => a * 256 + b.toNat) 0 := by
    intro ys
    induction ys with
    | nil => intro a; simp
    | cons y ys ih =>
      intro a
      simp only [List.foldl_cons, List.length_cons]
      rw [ih (a * 256 + y.toNat), ih (0 * 256 + y.toNat), Nat.pow_succ]
      simp only [Nat.zero_mul, Nat.zero_add, Nat.add_mul, Nat.mul_assoc, Nat.mul_comm 256, Nat.add_assoc]
  simp only [beNat, List.foldl_append]
  exact aux ys _

theorem beNat_cons (b : Byte) (bs : List Byte) : beNat (b :: bs) = b.toNat * 256 ^ bs.length + beNat bs := by
  have := beNat_append [b] bs
  simpa [beNat] using this

theorem beNat_lt (bs : List Byte) : beNat bs < 256 ^ bs.length := by
  induction bs with
  | nil => simp [beNat]
  | cons b bs ih =>
    rw [beNat_cons, List.length_cons, Nat.pow_succ]
    have := b.isLt
    nlinarith

/-- A number that fits in its bytes is read back from them (R171). -/
theorem beNat_beBytes (k n : Nat) : beNat (beBytes k n) = n % 256 ^ k := by
  induction k with
  | zero => simp [beBytes, beNat, Nat.mod_one]
  | succ k ih =>
    have h : n % 256 ^ (k + 1) = n % 256 ^ k + 256 ^ k * (n / 256 ^ k % 256) := by rw [Nat.pow_succ, Nat.mod_mul]
    rw [beBytes, beNat_cons, ih, beBytes_length, BitVec.toNat_ofNat, h, Nat.add_comm, Nat.mul_comm]

theorem beNat_beBytes_of_lt {k n : Nat} (h : n < 256 ^ k) : beNat (beBytes k n) = n := by
  rw [beNat_beBytes, Nat.mod_eq_of_lt h]

/-- A field that stands between others is read alone (R171). -/
theorem fieldAt_append {pre post : List Byte} {k n off : Nat} (ho : pre.length = off) (h : n < 256 ^ k) :
    fieldAt (pre ++ (beBytes k n ++ post)) off k = n := by
  subst ho
  simp only [fieldAt, List.drop_left, List.take_left' (beBytes_length k n), beNat_beBytes_of_lt h]

/-- A field at the beginning is read alone (R171). -/
theorem fieldAt_zero {post : List Byte} {k n : Nat} (h : n < 256 ^ k) : fieldAt (beBytes k n ++ post) 0 k = n :=
  fieldAt_append (pre := []) rfl h

/-- Bytes before a field shift its offset. -/
theorem fieldAt_add (pre bs : List Byte) (off k : Nat) : fieldAt (pre ++ bs) (pre.length + off) k = fieldAt bs off k := by
  have h : (pre ++ bs).drop (pre.length + off) = bs.drop off := by rw [← List.drop_drop, List.drop_left]
  simp only [fieldAt, h]

theorem byteAt_add (pre bs : List Byte) (off : Nat) : byteAt (pre ++ bs) (pre.length + off) = byteAt bs off := by
  simp only [byteAt, List.getD_eq_getElem?_getD, List.getElem?_append_right (Nat.le_add_right _ _), Nat.add_sub_cancel_left]

theorem byteAt_cons_zero (b : Byte) (bs : List Byte) : byteAt (b :: bs) 0 = b.toNat := rfl

theorem byteAt_cons_succ (b : Byte) (bs : List Byte) (n : Nat) : byteAt (b :: bs) (n + 1) = byteAt bs n := rfl

theorem fieldAt_cons_succ (b : Byte) (bs : List Byte) (n k : Nat) : fieldAt (b :: bs) (n + 1) k = fieldAt bs n k := rfl

theorem beBytes_two (n : Nat) : beBytes 2 n = [BitVec.ofNat 8 (n / 256), BitVec.ofNat 8 n] := by
  simp [beBytes]

theorem beBytes_four (n : Nat) :
    beBytes 4 n = [BitVec.ofNat 8 (n / 16777216), BitVec.ofNat 8 (n / 65536), BitVec.ofNat 8 (n / 256), BitVec.ofNat 8 n] := by
  simp [beBytes]

/-- A field of two bytes. -/
theorem fieldAt_two (bs : List Byte) (off : Nat) (h : off + 2 ≤ bs.length) : fieldAt bs off 2 = byteAt bs off * 256 + byteAt bs (off + 1) := by
  have h1 : (bs.drop off).take 2 = [bs[off]'(by omega), bs[off + 1]'(by omega)] := by
    rw [List.drop_eq_getElem_cons (by omega), List.take_succ_cons, List.drop_eq_getElem_cons (by omega), List.take_succ_cons]
    simp
  simp only [fieldAt, h1, beNat, List.foldl_cons, List.foldl_nil, byteAt, List.getD_eq_getElem?_getD, List.getElem?_eq_getElem,
    show off < bs.length by omega, show off + 1 < bs.length by omega, Option.getD_some]
  omega

/-- The number that bits spell is below the power of two of their count (R72). -/
theorem bitsToNat_append (xs ys : List Bool) : bitsToNat (xs ++ ys) = bitsToNat xs * 2 ^ ys.length + bitsToNat ys := by
  have aux : ∀ (ys : List Bool) (a : Nat),
      ys.foldl (fun a b => 2 * a + b.toNat) a = a * 2 ^ ys.length + ys.foldl (fun a b => 2 * a + b.toNat) 0 := by
    intro ys
    induction ys with
    | nil => intro a; simp
    | cons y ys ih =>
      intro a
      simp only [List.foldl_cons, List.length_cons]
      rw [ih (2 * a + y.toNat), ih (2 * 0 + y.toNat), Nat.pow_succ]
      ring
  simp only [bitsToNat, List.foldl_append]
  exact aux ys _

theorem bitsToNat_lt (bits : List Bool) : bitsToNat bits < 2 ^ bits.length := by
  induction bits using List.reverseRecOn with
  | nil => simp [bitsToNat]
  | append_singleton xs b ih =>
    have hb : bitsToNat [b] = b.toNat := by cases b <;> rfl
    rw [bitsToNat_append, hb, List.length_append, List.length_singleton, Nat.pow_one, Nat.pow_succ]
    cases b <;> simp only [Bool.toNat_true, Bool.toNat_false] <;> omega

/-- Bit `size - 1 - j` of the number is bit `j` of the run, the first being the most significant (R72). -/
theorem bitsToNat_testBit (bits : List Bool) (j : Nat) (h : j < bits.length) :
    (bitsToNat bits).testBit (bits.length - 1 - j) = bits[j] := by
  induction bits using List.reverseRecOn with
  | nil => exact absurd h (by simp)
  | append_singleton xs b ih =>
    rw [bitsToNat_append]
    have hb : bitsToNat [b] = b.toNat := by cases b <;> rfl
    simp only [List.length_append, List.length_singleton, hb, Nat.pow_one]
    rw [List.length_append, List.length_singleton] at h
    by_cases hj : j < xs.length
    · rw [List.getElem_append_left hj, ← ih hj]
      have e : xs.length + 1 - 1 - j = (xs.length - 1 - j) + 1 := by omega
      rw [e, Nat.testBit_succ]
      congr 1
      cases b
      · simp
      · simp; omega
    · have e : j = xs.length := by omega
      subst e
      rw [List.getElem_append_right (Nat.le_refl _)]
      cases b
      · simp [Nat.testBit_zero]
      · simp [Nat.testBit_zero]

end Sys2Proof.Machine
end

