-- ==== Sys2Proof/Laws/State.lean ====
section
/-!
SUPPORT. What each update of the state leaves in each field: one lemma per field per update, so that no proof unfolds an update.
-/
namespace Sys2Proof.Machine

variable (s : State)

/-! ### setRoute -/

@[simp] theorem State.setRoute_slots (r : RouteId) (e : RouteEntry) : (s.setRoute r e).slots = s.slots := rfl
@[simp] theorem State.setRoute_queues (r : RouteId) (e : RouteEntry) : (s.setRoute r e).queues = s.queues := rfl
@[simp] theorem State.setRoute_completion (r : RouteId) (e : RouteEntry) : (s.setRoute r e).completion = s.completion := rfl
@[simp] theorem State.setRoute_lanes (r : RouteId) (e : RouteEntry) : (s.setRoute r e).lanes = s.lanes := rfl
@[simp] theorem State.setRoute_freeCells (r : RouteId) (e : RouteEntry) : (s.setRoute r e).freeCells = s.freeCells := rfl
@[simp] theorem State.setRoute_mem (r : RouteId) (e : RouteEntry) : (s.setRoute r e).mem = s.mem := rfl
@[simp] theorem State.setRoute_flow (r : RouteId) (e : RouteEntry) : (s.setRoute r e).flow = s.flow := rfl
@[simp] theorem State.setRoute_receiver (r : RouteId) (e : RouteEntry) : (s.setRoute r e).receiver = s.receiver := rfl
@[simp] theorem State.setRoute_trans (r : RouteId) (e : RouteEntry) : (s.setRoute r e).trans = s.trans := rfl
@[simp] theorem State.setRoute_agent (r : RouteId) (e : RouteEntry) : (s.setRoute r e).agent = s.agent := rfl
@[simp] theorem State.setRoute_counters (r : RouteId) (e : RouteEntry) : (s.setRoute r e).counters = s.counters := rfl
@[simp] theorem State.setRoute_events (r : RouteId) (e : RouteEntry) : (s.setRoute r e).events = s.events := rfl
@[simp] theorem State.setRoute_timeBase (r : RouteId) (e : RouteEntry) : (s.setRoute r e).timeBase = s.timeBase := rfl
@[simp] theorem State.setRoute_resetLine (r : RouteId) (e : RouteEntry) : (s.setRoute r e).resetLine = s.resetLine := rfl
@[simp] theorem State.setRoute_draws (r : RouteId) (e : RouteEntry) : (s.setRoute r e).draws = s.draws := rfl
@[simp] theorem State.setRoute_pending (r : RouteId) (e : RouteEntry) : (s.setRoute r e).pending = s.pending := rfl
@[simp] theorem State.setRoute_route (r : RouteId) (e : RouteEntry) (k : RouteId) :
    (s.setRoute r e).route k = if r = k then e else s.route k := by
  simp only [State.setRoute, State.route, Fin.getElem_fin, Vector.getElem_set, Fin.val_inj]
@[simp] theorem State.setRoute_slot (r : RouteId) (e : RouteEntry) (j : SlotId) : (s.setRoute r e).slot j = s.slot j := rfl
@[simp] theorem State.setRoute_queue (r : RouteId) (e : RouteEntry) (m : LaneId) : (s.setRoute r e).queue m = s.queue m := rfl
@[simp] theorem State.setRoute_lane (r : RouteId) (e : RouteEntry) (m : LaneId) : (s.setRoute r e).lane m = s.lane m := rfl

/-! ### setSlot -/

@[simp] theorem State.setSlot_routes (i : SlotId) (t : Slot) : (s.setSlot i t).routes = s.routes := rfl
@[simp] theorem State.setSlot_queues (i : SlotId) (t : Slot) : (s.setSlot i t).queues = s.queues := rfl
@[simp] theorem State.setSlot_completion (i : SlotId) (t : Slot) : (s.setSlot i t).completion = s.completion := rfl
@[simp] theorem State.setSlot_lanes (i : SlotId) (t : Slot) : (s.setSlot i t).lanes = s.lanes := rfl
@[simp] theorem State.setSlot_freeCells (i : SlotId) (t : Slot) : (s.setSlot i t).freeCells = s.freeCells := rfl
@[simp] theorem State.setSlot_mem (i : SlotId) (t : Slot) : (s.setSlot i t).mem = s.mem := rfl
@[simp] theorem State.setSlot_flow (i : SlotId) (t : Slot) : (s.setSlot i t).flow = s.flow := rfl
@[simp] theorem State.setSlot_receiver (i : SlotId) (t : Slot) : (s.setSlot i t).receiver = s.receiver := rfl
@[simp] theorem State.setSlot_trans (i : SlotId) (t : Slot) : (s.setSlot i t).trans = s.trans := rfl
@[simp] theorem State.setSlot_agent (i : SlotId) (t : Slot) : (s.setSlot i t).agent = s.agent := rfl
@[simp] theorem State.setSlot_counters (i : SlotId) (t : Slot) : (s.setSlot i t).counters = s.counters := rfl
@[simp] theorem State.setSlot_events (i : SlotId) (t : Slot) : (s.setSlot i t).events = s.events := rfl
@[simp] theorem State.setSlot_timeBase (i : SlotId) (t : Slot) : (s.setSlot i t).timeBase = s.timeBase := rfl
@[simp] theorem State.setSlot_resetLine (i : SlotId) (t : Slot) : (s.setSlot i t).resetLine = s.resetLine := rfl
@[simp] theorem State.setSlot_draws (i : SlotId) (t : Slot) : (s.setSlot i t).draws = s.draws := rfl
@[simp] theorem State.setSlot_pending (i : SlotId) (t : Slot) : (s.setSlot i t).pending = s.pending := rfl
@[simp] theorem State.setSlot_route (i : SlotId) (t : Slot) (k : RouteId) : (s.setSlot i t).route k = s.route k := rfl
@[simp] theorem State.setSlot_slot (i : SlotId) (t : Slot) (j : SlotId) :
    (s.setSlot i t).slot j = if i = j then t else s.slot j := by
  simp only [State.setSlot, State.slot, Fin.getElem_fin, Vector.getElem_set, Fin.val_inj]
@[simp] theorem State.setSlot_queue (i : SlotId) (t : Slot) (m : LaneId) : (s.setSlot i t).queue m = s.queue m := rfl
@[simp] theorem State.setSlot_lane (i : SlotId) (t : Slot) (m : LaneId) : (s.setSlot i t).lane m = s.lane m := rfl

/-! ### setQueue -/

@[simp] theorem State.setQueue_routes (l : LaneId) (q : List SlotId) : (s.setQueue l q).routes = s.routes := rfl
@[simp] theorem State.setQueue_slots (l : LaneId) (q : List SlotId) : (s.setQueue l q).slots = s.slots := rfl
@[simp] theorem State.setQueue_completion (l : LaneId) (q : List SlotId) : (s.setQueue l q).completion = s.completion := rfl
@[simp] theorem State.setQueue_lanes (l : LaneId) (q : List SlotId) : (s.setQueue l q).lanes = s.lanes := rfl
@[simp] theorem State.setQueue_freeCells (l : LaneId) (q : List SlotId) : (s.setQueue l q).freeCells = s.freeCells := rfl
@[simp] theorem State.setQueue_mem (l : LaneId) (q : List SlotId) : (s.setQueue l q).mem = s.mem := rfl
@[simp] theorem State.setQueue_flow (l : LaneId) (q : List SlotId) : (s.setQueue l q).flow = s.flow := rfl
@[simp] theorem State.setQueue_receiver (l : LaneId) (q : List SlotId) : (s.setQueue l q).receiver = s.receiver := rfl
@[simp] theorem State.setQueue_trans (l : LaneId) (q : List SlotId) : (s.setQueue l q).trans = s.trans := rfl
@[simp] theorem State.setQueue_agent (l : LaneId) (q : List SlotId) : (s.setQueue l q).agent = s.agent := rfl
@[simp] theorem State.setQueue_counters (l : LaneId) (q : List SlotId) : (s.setQueue l q).counters = s.counters := rfl
@[simp] theorem State.setQueue_events (l : LaneId) (q : List SlotId) : (s.setQueue l q).events = s.events := rfl
@[simp] theorem State.setQueue_timeBase (l : LaneId) (q : List SlotId) : (s.setQueue l q).timeBase = s.timeBase := rfl
@[simp] theorem State.setQueue_resetLine (l : LaneId) (q : List SlotId) : (s.setQueue l q).resetLine = s.resetLine := rfl
@[simp] theorem State.setQueue_draws (l : LaneId) (q : List SlotId) : (s.setQueue l q).draws = s.draws := rfl
@[simp] theorem State.setQueue_pending (l : LaneId) (q : List SlotId) : (s.setQueue l q).pending = s.pending := rfl
@[simp] theorem State.setQueue_route (l : LaneId) (q : List SlotId) (k : RouteId) : (s.setQueue l q).route k = s.route k := rfl
@[simp] theorem State.setQueue_slot (l : LaneId) (q : List SlotId) (j : SlotId) : (s.setQueue l q).slot j = s.slot j := rfl
@[simp] theorem State.setQueue_queue (l : LaneId) (q : List SlotId) (m : LaneId) :
    (s.setQueue l q).queue m = if l = m then q else s.queue m := by
  simp only [State.setQueue, State.queue, Fin.getElem_fin, Vector.getElem_set, Fin.val_inj]
@[simp] theorem State.setQueue_lane (l : LaneId) (q : List SlotId) (m : LaneId) : (s.setQueue l q).lane m = s.lane m := rfl

/-! ### setLane -/

@[simp] theorem State.setLane_routes (l : LaneId) (e : LaneEngine) : (s.setLane l e).routes = s.routes := rfl
@[simp] theorem State.setLane_slots (l : LaneId) (e : LaneEngine) : (s.setLane l e).slots = s.slots := rfl
@[simp] theorem State.setLane_queues (l : LaneId) (e : LaneEngine) : (s.setLane l e).queues = s.queues := rfl
@[simp] theorem State.setLane_completion (l : LaneId) (e : LaneEngine) : (s.setLane l e).completion = s.completion := rfl
@[simp] theorem State.setLane_freeCells (l : LaneId) (e : LaneEngine) : (s.setLane l e).freeCells = s.freeCells := rfl
@[simp] theorem State.setLane_mem (l : LaneId) (e : LaneEngine) : (s.setLane l e).mem = s.mem := rfl
@[simp] theorem State.setLane_flow (l : LaneId) (e : LaneEngine) : (s.setLane l e).flow = s.flow := rfl
@[simp] theorem State.setLane_receiver (l : LaneId) (e : LaneEngine) : (s.setLane l e).receiver = s.receiver := rfl
@[simp] theorem State.setLane_trans (l : LaneId) (e : LaneEngine) : (s.setLane l e).trans = s.trans := rfl
@[simp] theorem State.setLane_agent (l : LaneId) (e : LaneEngine) : (s.setLane l e).agent = s.agent := rfl
@[simp] theorem State.setLane_counters (l : LaneId) (e : LaneEngine) : (s.setLane l e).counters = s.counters := rfl
@[simp] theorem State.setLane_events (l : LaneId) (e : LaneEngine) : (s.setLane l e).events = s.events := rfl
@[simp] theorem State.setLane_timeBase (l : LaneId) (e : LaneEngine) : (s.setLane l e).timeBase = s.timeBase := rfl
@[simp] theorem State.setLane_resetLine (l : LaneId) (e : LaneEngine) : (s.setLane l e).resetLine = s.resetLine := rfl
@[simp] theorem State.setLane_draws (l : LaneId) (e : LaneEngine) : (s.setLane l e).draws = s.draws := rfl
@[simp] theorem State.setLane_pending (l : LaneId) (e : LaneEngine) : (s.setLane l e).pending = s.pending := rfl
@[simp] theorem State.setLane_route (l : LaneId) (e : LaneEngine) (k : RouteId) : (s.setLane l e).route k = s.route k := rfl
@[simp] theorem State.setLane_slot (l : LaneId) (e : LaneEngine) (j : SlotId) : (s.setLane l e).slot j = s.slot j := rfl
@[simp] theorem State.setLane_queue (l : LaneId) (e : LaneEngine) (m : LaneId) : (s.setLane l e).queue m = s.queue m := rfl
@[simp] theorem State.setLane_lane (l : LaneId) (e : LaneEngine) (m : LaneId) :
    (s.setLane l e).lane m = if l = m then e else s.lane m := by
  simp only [State.setLane, State.lane, Fin.getElem_fin, Vector.getElem_set, Fin.val_inj]

/-! ### Counters -/

@[simp] theorem bumpSet_routes (k : Option SetId) (c : SetCounter) (n : Nat) : (bumpSet k c n s).routes = s.routes := rfl
@[simp] theorem bumpDevice_routes (c : DeviceCounter) (n : Nat) : (bumpDevice c n s).routes = s.routes := rfl
@[simp] theorem bumpSet_slots (k : Option SetId) (c : SetCounter) (n : Nat) : (bumpSet k c n s).slots = s.slots := rfl
@[simp] theorem bumpDevice_slots (c : DeviceCounter) (n : Nat) : (bumpDevice c n s).slots = s.slots := rfl
@[simp] theorem bumpSet_queues (k : Option SetId) (c : SetCounter) (n : Nat) : (bumpSet k c n s).queues = s.queues := rfl
@[simp] theorem bumpDevice_queues (c : DeviceCounter) (n : Nat) : (bumpDevice c n s).queues = s.queues := rfl
@[simp] theorem bumpSet_completion (k : Option SetId) (c : SetCounter) (n : Nat) : (bumpSet k c n s).completion = s.completion := rfl
@[simp] theorem bumpDevice_completion (c : DeviceCounter) (n : Nat) : (bumpDevice c n s).completion = s.completion := rfl
@[simp] theorem bumpSet_lanes (k : Option SetId) (c : SetCounter) (n : Nat) : (bumpSet k c n s).lanes = s.lanes := rfl
@[simp] theorem bumpDevice_lanes (c : DeviceCounter) (n : Nat) : (bumpDevice c n s).lanes = s.lanes := rfl
@[simp] theorem bumpSet_freeCells (k : Option SetId) (c : SetCounter) (n : Nat) : (bumpSet k c n s).freeCells = s.freeCells := rfl
@[simp] theorem bumpDevice_freeCells (c : DeviceCounter) (n : Nat) : (bumpDevice c n s).freeCells = s.freeCells := rfl
@[simp] theorem bumpSet_mem (k : Option SetId) (c : SetCounter) (n : Nat) : (bumpSet k c n s).mem = s.mem := rfl
@[simp] theorem bumpDevice_mem (c : DeviceCounter) (n : Nat) : (bumpDevice c n s).mem = s.mem := rfl
@[simp] theorem bumpSet_flow (k : Option SetId) (c : SetCounter) (n : Nat) : (bumpSet k c n s).flow = s.flow := rfl
@[simp] theorem bumpDevice_flow (c : DeviceCounter) (n : Nat) : (bumpDevice c n s).flow = s.flow := rfl
@[simp] theorem bumpSet_receiver (k : Option SetId) (c : SetCounter) (n : Nat) : (bumpSet k c n s).receiver = s.receiver := rfl
@[simp] theorem bumpDevice_receiver (c : DeviceCounter) (n : Nat) : (bumpDevice c n s).receiver = s.receiver := rfl
@[simp] theorem bumpSet_trans (k : Option SetId) (c : SetCounter) (n : Nat) : (bumpSet k c n s).trans = s.trans := rfl
@[simp] theorem bumpDevice_trans (c : DeviceCounter) (n : Nat) : (bumpDevice c n s).trans = s.trans := rfl
@[simp] theorem bumpSet_agent (k : Option SetId) (c : SetCounter) (n : Nat) : (bumpSet k c n s).agent = s.agent := rfl
@[simp] theorem bumpDevice_agent (c : DeviceCounter) (n : Nat) : (bumpDevice c n s).agent = s.agent := rfl
@[simp] theorem bumpSet_events (k : Option SetId) (c : SetCounter) (n : Nat) : (bumpSet k c n s).events = s.events := rfl
@[simp] theorem bumpDevice_events (c : DeviceCounter) (n : Nat) : (bumpDevice c n s).events = s.events := rfl
@[simp] theorem bumpSet_timeBase (k : Option SetId) (c : SetCounter) (n : Nat) : (bumpSet k c n s).timeBase = s.timeBase := rfl
@[simp] theorem bumpDevice_timeBase (c : DeviceCounter) (n : Nat) : (bumpDevice c n s).timeBase = s.timeBase := rfl
@[simp] theorem bumpSet_resetLine (k : Option SetId) (c : SetCounter) (n : Nat) : (bumpSet k c n s).resetLine = s.resetLine := rfl
@[simp] theorem bumpDevice_resetLine (c : DeviceCounter) (n : Nat) : (bumpDevice c n s).resetLine = s.resetLine := rfl
@[simp] theorem bumpSet_draws (k : Option SetId) (c : SetCounter) (n : Nat) : (bumpSet k c n s).draws = s.draws := rfl
@[simp] theorem bumpDevice_draws (c : DeviceCounter) (n : Nat) : (bumpDevice c n s).draws = s.draws := rfl
@[simp] theorem bumpSet_pending (k : Option SetId) (c : SetCounter) (n : Nat) : (bumpSet k c n s).pending = s.pending := rfl
@[simp] theorem bumpDevice_pending (c : DeviceCounter) (n : Nat) : (bumpDevice c n s).pending = s.pending := rfl
@[simp] theorem bumpSet_route (k : Option SetId) (c : SetCounter) (n : Nat) (r : RouteId) :
    (bumpSet k c n s).route r = s.route r := rfl
@[simp] theorem bumpDevice_route (c : DeviceCounter) (n : Nat) (r : RouteId) :
    (bumpDevice c n s).route r = s.route r := rfl
@[simp] theorem bumpSet_slot (k : Option SetId) (c : SetCounter) (n : Nat) (i : SlotId) :
    (bumpSet k c n s).slot i = s.slot i := rfl
@[simp] theorem bumpDevice_slot (c : DeviceCounter) (n : Nat) (i : SlotId) :
    (bumpDevice c n s).slot i = s.slot i := rfl
@[simp] theorem bumpSet_queue (k : Option SetId) (c : SetCounter) (n : Nat) (l : LaneId) :
    (bumpSet k c n s).queue l = s.queue l := rfl
@[simp] theorem bumpDevice_queue (c : DeviceCounter) (n : Nat) (l : LaneId) :
    (bumpDevice c n s).queue l = s.queue l := rfl
@[simp] theorem bumpSet_lane (k : Option SetId) (c : SetCounter) (n : Nat) (l : LaneId) :
    (bumpSet k c n s).lane l = s.lane l := rfl
@[simp] theorem bumpDevice_lane (c : DeviceCounter) (n : Nat) (l : LaneId) :
    (bumpDevice c n s).lane l = s.lane l := rfl

theorem SetCounter.index_injective {c d : SetCounter} (h : c.index = d.index) : c = d := by
  cases c <;> cases d <;> first | rfl | exact absurd h (by decide)

theorem DeviceCounter.index_injective {c d : DeviceCounter} (h : c.index = d.index) : c = d := by
  cases c <;> cases d <;> first | rfl | exact absurd h (by decide)

/-- A set counter after an addition (R150, R154). -/
@[simp] theorem bumpSet_setCount (k : Option SetId) (c : SetCounter) (n : Nat) (j : SetId) (d : SetCounter) :
    (bumpSet k c n s).setCount j d = if k = some j ∧ c = d then s.setCount j d + BitVec.ofNat 40 n else s.setCount j d := by
  cases k with
  | none => simp [bumpSet, CounterBank.addSet, State.setCount]
  | some k =>
    by_cases hk : k = j
    · subst hk
      by_cases hc : c = d
      · subst hc; simp [bumpSet, CounterBank.addSet, State.setCount]
      · have : c.index.val ≠ d.index.val := fun h => hc (SetCounter.index_injective (Fin.ext h))
        simp [bumpSet, CounterBank.addSet, State.setCount, hc, this]
    · have : k.val ≠ j.val := fun h => hk (Fin.ext h)
      simp [bumpSet, CounterBank.addSet, State.setCount, hk, this]

@[simp] theorem bumpSet_deviceCount (k : Option SetId) (c : SetCounter) (n : Nat) (d : DeviceCounter) :
    (bumpSet k c n s).deviceCount d = s.deviceCount d := by
  cases k <;> rfl

/-- A device counter after an addition (R153, R154). -/
@[simp] theorem bumpDevice_deviceCount (c : DeviceCounter) (n : Nat) (d : DeviceCounter) :
    (bumpDevice c n s).deviceCount d = if c = d then s.deviceCount d + BitVec.ofNat 40 n else s.deviceCount d := by
  by_cases hc : c = d
  · subst hc; simp [bumpDevice, State.deviceCount]
  · have : c.index.val ≠ d.index.val := fun h => hc (DeviceCounter.index_injective (Fin.ext h))
    simp [bumpDevice, State.deviceCount, hc, this]

@[simp] theorem bumpDevice_setCount (c : DeviceCounter) (n : Nat) (j : SetId) (d : SetCounter) :
    (bumpDevice c n s).setCount j d = s.setCount j d := rfl

end Sys2Proof.Machine
end

