-- ==== Sys2Proof/Laws/Events.lean ====
section
/-!
SUPPORT. What the operations of the Event Unit leave in each field, and what judging a request and setting a condition can do.
-/
namespace Sys2Proof.Machine

variable (e : EventUnit)

theorem Condition.index_injective {c d : Condition} (h : c.index = d.index) : c = d := by
  cases c <;> cases d <;> first | rfl | exact absurd h (by decide)

/-- There is news exactly when a condition that is not masked is set and unreported (R163). -/
theorem EventUnit.hasNews_iff : e.hasNews = true ↔ ∃ i : Fin 9, e.conditions[i] = .unreported ∧ e.mask.getLsbD i.val = false := by
  simp [EventUnit.hasNews]

/-- News depends on the conditions and the mask alone. -/
theorem EventUnit.hasNews_congr {d e : EventUnit} (hc : d.conditions = e.conditions) (hm : d.mask = e.mask) : d.hasNews = e.hasNews := by
  simp only [EventUnit.hasNews, hc, hm]

/-! ### mark -/

@[simp] theorem EventUnit.mark_contentionSet (c : Condition) : (e.mark c).contentionSet = e.contentionSet := rfl
@[simp] theorem EventUnit.mark_timeoutSet (c : Condition) : (e.mark c).timeoutSet = e.timeoutSet := rfl
@[simp] theorem EventUnit.mark_drained (c : Condition) : (e.mark c).drained = e.drained := rfl
@[simp] theorem EventUnit.mark_mask (c : Condition) : (e.mark c).mask = e.mask := rfl
@[simp] theorem EventUnit.mark_destination (c : Condition) : (e.mark c).destination = e.destination := rfl
@[simp] theorem EventUnit.mark_repeatInterval (c : Condition) : (e.mark c).repeatInterval = e.repeatInterval := rfl
@[simp] theorem EventUnit.mark_nextNumber (c : Condition) : (e.mark c).nextNumber = e.nextNumber := rfl
@[simp] theorem EventUnit.mark_state (c : Condition) : (e.mark c).state = e.state := rfl
@[simp] theorem EventUnit.mark_outstanding (c : Condition) : (e.mark c).outstanding = e.outstanding := rfl
@[simp] theorem EventUnit.mark_request (c : Condition) : (e.mark c).request = e.request := rfl
@[simp] theorem EventUnit.mark_repeatTimer (c : Condition) : (e.mark c).repeatTimer = e.repeatTimer := rfl

/-- A marked condition is set and unreported; every other stands (R162). -/
@[simp] theorem EventUnit.mark_cond (c d : Condition) : (e.mark c).cond d = if d = c then .unreported else e.cond d := by
  simp only [EventUnit.mark, EventUnit.cond, Fin.getElem_fin, Vector.getElem_set]
  by_cases h : d = c
  · subst h; simp
  · have : c.index.val ≠ d.index.val := fun e => h (Condition.index_injective (Fin.ext e)).symm
    simp [h, this]

/-- The conditions of an Event Unit are told apart by name. -/
theorem EventUnit.conditions_eq {d e : EventUnit} (h : ∀ c, d.cond c = e.cond c) : d.conditions = e.conditions := by
  refine Vector.ext fun i hi => ?_
  match i, hi with
  | 0, _ => exact h .drainDone
  | 1, _ => exact h .laneContention
  | 2, _ => exact h .readyTimeout
  | 3, _ => exact h .shortLoss
  | 4, _ => exact h .mgmtLoss
  | 5, _ => exact h .lockExpired
  | 6, _ => exact h .poolLow
  | 7, _ => exact h .receiveError
  | 8, _ => exact h .linkRestored

/-! ### judge -/

@[simp] theorem EventUnit.judge_conditions (l : LinkState) : (e.judge l).conditions = e.conditions := by
  unfold EventUnit.judge; split <;> rfl
@[simp] theorem EventUnit.judge_contentionSet (l : LinkState) : (e.judge l).contentionSet = e.contentionSet := by
  unfold EventUnit.judge; split <;> rfl
@[simp] theorem EventUnit.judge_timeoutSet (l : LinkState) : (e.judge l).timeoutSet = e.timeoutSet := by
  unfold EventUnit.judge; split <;> rfl
@[simp] theorem EventUnit.judge_drained (l : LinkState) : (e.judge l).drained = e.drained := by
  unfold EventUnit.judge; split <;> rfl
@[simp] theorem EventUnit.judge_mask (l : LinkState) : (e.judge l).mask = e.mask := by
  unfold EventUnit.judge; split <;> rfl
@[simp] theorem EventUnit.judge_destination (l : LinkState) : (e.judge l).destination = e.destination := by
  unfold EventUnit.judge; split <;> rfl
@[simp] theorem EventUnit.judge_repeatInterval (l : LinkState) : (e.judge l).repeatInterval = e.repeatInterval := by
  unfold EventUnit.judge; split <;> rfl
@[simp] theorem EventUnit.judge_nextNumber (l : LinkState) : (e.judge l).nextNumber = e.nextNumber := by
  unfold EventUnit.judge; split <;> rfl
@[simp] theorem EventUnit.judge_outstanding (l : LinkState) : (e.judge l).outstanding = e.outstanding := by
  unfold EventUnit.judge; split <;> rfl
@[simp] theorem EventUnit.judge_repeatTimer (l : LinkState) : (e.judge l).repeatTimer = e.repeatTimer := by
  unfold EventUnit.judge; split <;> rfl
@[simp] theorem EventUnit.judge_cond (l : LinkState) (c : Condition) : (e.judge l).cond c = e.cond c := by
  simp only [EventUnit.cond, EventUnit.judge_conditions]
@[simp] theorem EventUnit.judge_hasNews (l : LinkState) : (e.judge l).hasNews = e.hasNews :=
  EventUnit.hasNews_congr (e.judge_conditions l) (e.judge_mask l)

/-- When a request is judged to be made (R163). -/
theorem EventUnit.judge_of_news {l : LinkState} (h : e.state = .quiet ∧ e.destination.isSome ∧ l = .up ∧ e.hasNews) :
    e.judge l = { e with state := .requested, request := true } := if_pos h

/-- When no request is made (R163). -/
theorem EventUnit.judge_of_none {l : LinkState} (h : ¬(e.state = .quiet ∧ e.destination.isSome ∧ l = .up ∧ e.hasNews)) : e.judge l = e :=
  if_neg h

/-- The event state after a judgement (R163). -/
theorem EventUnit.judge_state (l : LinkState) : (e.judge l).state =
    if e.state = .quiet ∧ e.destination.isSome ∧ l = .up ∧ e.hasNews then .requested else e.state := by
  unfold EventUnit.judge; split <;> rfl

/-- The pending request after a judgement (R163). -/
theorem EventUnit.judge_request (l : LinkState) : (e.judge l).request =
    if e.state = .quiet ∧ e.destination.isSome ∧ l = .up ∧ e.hasNews then true else e.request := by
  unfold EventUnit.judge; split <;> rfl

/-- Judging changes the event state and the pending request alone. -/
theorem EventUnit.judge_eq (l : LinkState) : e.judge l = { e with state := (e.judge l).state, request := (e.judge l).request } := by
  unfold EventUnit.judge; split <;> rfl

/-- After a judgement no cause for a request is left unrequested (R163). -/
theorem EventUnit.judge_settles (l : LinkState) :
    ¬((e.judge l).state = .quiet ∧ (e.judge l).destination.isSome ∧ l = .up ∧ (e.judge l).hasNews) := by
  intro h
  by_cases hc : e.state = .quiet ∧ e.destination.isSome ∧ l = .up ∧ e.hasNews
  · rw [EventUnit.judge_of_news e hc] at h
    exact absurd h.1 (by simp)
  · rw [EventUnit.judge_of_none e hc] at h
    exact hc h

/-- Judging twice is judging once. -/
@[simp] theorem EventUnit.judge_judge (l : LinkState) : (e.judge l).judge l = e.judge l :=
  EventUnit.judge_of_none _ (e.judge_settles l)

/-! ### The state after a condition is set -/

variable (s : State)

/-- A condition set touches the Event Unit alone. -/
theorem setCondition_eq (c : Condition) : setCondition c s = { s with events := (setCondition c s).events } := rfl

@[simp] theorem setCondition_events (c : Condition) : (setCondition c s).events = (s.events.mark c).judge s.receiver.link := rfl

/-- Setting a condition depends on the Event Unit and the link alone. -/
theorem setCondition_events_congr {s t : State} (c : Condition) (he : s.events = t.events) (hl : s.receiver.link = t.receiver.link) :
    (setCondition c s).events = (setCondition c t).events := by
  simp only [setCondition_events, he, hl]

/-! ### setCondition -/

@[simp] theorem setCondition_routes (c : Condition) : (setCondition c s).routes = s.routes := rfl
@[simp] theorem setCondition_slots (c : Condition) : (setCondition c s).slots = s.slots := rfl
@[simp] theorem setCondition_queues (c : Condition) : (setCondition c s).queues = s.queues := rfl
@[simp] theorem setCondition_completion (c : Condition) : (setCondition c s).completion = s.completion := rfl
@[simp] theorem setCondition_lanes (c : Condition) : (setCondition c s).lanes = s.lanes := rfl
@[simp] theorem setCondition_freeCells (c : Condition) : (setCondition c s).freeCells = s.freeCells := rfl
@[simp] theorem setCondition_mem (c : Condition) : (setCondition c s).mem = s.mem := rfl
@[simp] theorem setCondition_flow (c : Condition) : (setCondition c s).flow = s.flow := rfl
@[simp] theorem setCondition_receiver (c : Condition) : (setCondition c s).receiver = s.receiver := rfl
@[simp] theorem setCondition_trans (c : Condition) : (setCondition c s).trans = s.trans := rfl
@[simp] theorem setCondition_agent (c : Condition) : (setCondition c s).agent = s.agent := rfl
@[simp] theorem setCondition_counters (c : Condition) : (setCondition c s).counters = s.counters := rfl
@[simp] theorem setCondition_timeBase (c : Condition) : (setCondition c s).timeBase = s.timeBase := rfl
@[simp] theorem setCondition_resetLine (c : Condition) : (setCondition c s).resetLine = s.resetLine := rfl
@[simp] theorem setCondition_draws (c : Condition) : (setCondition c s).draws = s.draws := rfl
@[simp] theorem setCondition_pending (c : Condition) : (setCondition c s).pending = s.pending := rfl

/-! ### setContention -/

@[simp] theorem setContention_routes (l : LaneId) : (setContention l s).routes = s.routes := rfl
@[simp] theorem setContention_slots (l : LaneId) : (setContention l s).slots = s.slots := rfl
@[simp] theorem setContention_queues (l : LaneId) : (setContention l s).queues = s.queues := rfl
@[simp] theorem setContention_completion (l : LaneId) : (setContention l s).completion = s.completion := rfl
@[simp] theorem setContention_lanes (l : LaneId) : (setContention l s).lanes = s.lanes := rfl
@[simp] theorem setContention_freeCells (l : LaneId) : (setContention l s).freeCells = s.freeCells := rfl
@[simp] theorem setContention_mem (l : LaneId) : (setContention l s).mem = s.mem := rfl
@[simp] theorem setContention_flow (l : LaneId) : (setContention l s).flow = s.flow := rfl
@[simp] theorem setContention_receiver (l : LaneId) : (setContention l s).receiver = s.receiver := rfl
@[simp] theorem setContention_trans (l : LaneId) : (setContention l s).trans = s.trans := rfl
@[simp] theorem setContention_agent (l : LaneId) : (setContention l s).agent = s.agent := rfl
@[simp] theorem setContention_counters (l : LaneId) : (setContention l s).counters = s.counters := rfl
@[simp] theorem setContention_timeBase (l : LaneId) : (setContention l s).timeBase = s.timeBase := rfl
@[simp] theorem setContention_resetLine (l : LaneId) : (setContention l s).resetLine = s.resetLine := rfl
@[simp] theorem setContention_draws (l : LaneId) : (setContention l s).draws = s.draws := rfl
@[simp] theorem setContention_pending (l : LaneId) : (setContention l s).pending = s.pending := rfl

/-! ### setReadyTimeout -/

@[simp] theorem setReadyTimeout_routes (l : LaneId) : (setReadyTimeout l s).routes = s.routes := rfl
@[simp] theorem setReadyTimeout_slots (l : LaneId) : (setReadyTimeout l s).slots = s.slots := rfl
@[simp] theorem setReadyTimeout_queues (l : LaneId) : (setReadyTimeout l s).queues = s.queues := rfl
@[simp] theorem setReadyTimeout_completion (l : LaneId) : (setReadyTimeout l s).completion = s.completion := rfl
@[simp] theorem setReadyTimeout_lanes (l : LaneId) : (setReadyTimeout l s).lanes = s.lanes := rfl
@[simp] theorem setReadyTimeout_freeCells (l : LaneId) : (setReadyTimeout l s).freeCells = s.freeCells := rfl
@[simp] theorem setReadyTimeout_mem (l : LaneId) : (setReadyTimeout l s).mem = s.mem := rfl
@[simp] theorem setReadyTimeout_flow (l : LaneId) : (setReadyTimeout l s).flow = s.flow := rfl
@[simp] theorem setReadyTimeout_receiver (l : LaneId) : (setReadyTimeout l s).receiver = s.receiver := rfl
@[simp] theorem setReadyTimeout_trans (l : LaneId) : (setReadyTimeout l s).trans = s.trans := rfl
@[simp] theorem setReadyTimeout_agent (l : LaneId) : (setReadyTimeout l s).agent = s.agent := rfl
@[simp] theorem setReadyTimeout_counters (l : LaneId) : (setReadyTimeout l s).counters = s.counters := rfl
@[simp] theorem setReadyTimeout_timeBase (l : LaneId) : (setReadyTimeout l s).timeBase = s.timeBase := rfl
@[simp] theorem setReadyTimeout_resetLine (l : LaneId) : (setReadyTimeout l s).resetLine = s.resetLine := rfl
@[simp] theorem setReadyTimeout_draws (l : LaneId) : (setReadyTimeout l s).draws = s.draws := rfl
@[simp] theorem setReadyTimeout_pending (l : LaneId) : (setReadyTimeout l s).pending = s.pending := rfl

/-! ### setDrainDone -/

@[simp] theorem setDrainDone_routes (r : RouteId) : (setDrainDone r s).routes = s.routes := rfl
@[simp] theorem setDrainDone_slots (r : RouteId) : (setDrainDone r s).slots = s.slots := rfl
@[simp] theorem setDrainDone_queues (r : RouteId) : (setDrainDone r s).queues = s.queues := rfl
@[simp] theorem setDrainDone_completion (r : RouteId) : (setDrainDone r s).completion = s.completion := rfl
@[simp] theorem setDrainDone_lanes (r : RouteId) : (setDrainDone r s).lanes = s.lanes := rfl
@[simp] theorem setDrainDone_freeCells (r : RouteId) : (setDrainDone r s).freeCells = s.freeCells := rfl
@[simp] theorem setDrainDone_mem (r : RouteId) : (setDrainDone r s).mem = s.mem := rfl
@[simp] theorem setDrainDone_flow (r : RouteId) : (setDrainDone r s).flow = s.flow := rfl
@[simp] theorem setDrainDone_receiver (r : RouteId) : (setDrainDone r s).receiver = s.receiver := rfl
@[simp] theorem setDrainDone_trans (r : RouteId) : (setDrainDone r s).trans = s.trans := rfl
@[simp] theorem setDrainDone_agent (r : RouteId) : (setDrainDone r s).agent = s.agent := rfl
@[simp] theorem setDrainDone_counters (r : RouteId) : (setDrainDone r s).counters = s.counters := rfl
@[simp] theorem setDrainDone_timeBase (r : RouteId) : (setDrainDone r s).timeBase = s.timeBase := rfl
@[simp] theorem setDrainDone_resetLine (r : RouteId) : (setDrainDone r s).resetLine = s.resetLine := rfl
@[simp] theorem setDrainDone_draws (r : RouteId) : (setDrainDone r s).draws = s.draws := rfl
@[simp] theorem setDrainDone_pending (r : RouteId) : (setDrainDone r s).pending = s.pending := rfl

/-! ### judgeEvent -/

@[simp] theorem judgeEvent_routes : (judgeEvent s).routes = s.routes := rfl
@[simp] theorem judgeEvent_slots : (judgeEvent s).slots = s.slots := rfl
@[simp] theorem judgeEvent_queues : (judgeEvent s).queues = s.queues := rfl
@[simp] theorem judgeEvent_completion : (judgeEvent s).completion = s.completion := rfl
@[simp] theorem judgeEvent_lanes : (judgeEvent s).lanes = s.lanes := rfl
@[simp] theorem judgeEvent_freeCells : (judgeEvent s).freeCells = s.freeCells := rfl
@[simp] theorem judgeEvent_mem : (judgeEvent s).mem = s.mem := rfl
@[simp] theorem judgeEvent_flow : (judgeEvent s).flow = s.flow := rfl
@[simp] theorem judgeEvent_receiver : (judgeEvent s).receiver = s.receiver := rfl
@[simp] theorem judgeEvent_trans : (judgeEvent s).trans = s.trans := rfl
@[simp] theorem judgeEvent_agent : (judgeEvent s).agent = s.agent := rfl
@[simp] theorem judgeEvent_counters : (judgeEvent s).counters = s.counters := rfl
@[simp] theorem judgeEvent_timeBase : (judgeEvent s).timeBase = s.timeBase := rfl
@[simp] theorem judgeEvent_resetLine : (judgeEvent s).resetLine = s.resetLine := rfl
@[simp] theorem judgeEvent_draws : (judgeEvent s).draws = s.draws := rfl
@[simp] theorem judgeEvent_pending : (judgeEvent s).pending = s.pending := rfl

/-- A drain completion marks DRAIN_DONE, lists the entry once, and judges (R162). -/
@[simp] theorem EventUnit.drainDone_drained (l : LinkState) (r : RouteId) :
    (e.drainDone l r).drained = if r ∈ e.drained then e.drained else e.drained ++ [r] := by
  simp only [EventUnit.drainDone, EventUnit.judge_drained, EventUnit.mark_drained]

@[simp] theorem EventUnit.drainDone_cond (l : LinkState) (r : RouteId) (c : Condition) :
    (e.drainDone l r).cond c = if c = .drainDone then .unreported else e.cond c := by
  simp only [EventUnit.drainDone, EventUnit.judge_cond, EventUnit.mark_cond]
  rfl

@[simp] theorem EventUnit.drainDone_contentionSet (l : LinkState) (r : RouteId) : (e.drainDone l r).contentionSet = e.contentionSet := by
  simp only [EventUnit.drainDone, EventUnit.judge_contentionSet, EventUnit.mark_contentionSet]
@[simp] theorem EventUnit.drainDone_timeoutSet (l : LinkState) (r : RouteId) : (e.drainDone l r).timeoutSet = e.timeoutSet := by
  simp only [EventUnit.drainDone, EventUnit.judge_timeoutSet, EventUnit.mark_timeoutSet]
@[simp] theorem EventUnit.drainDone_mask (l : LinkState) (r : RouteId) : (e.drainDone l r).mask = e.mask := by
  simp only [EventUnit.drainDone, EventUnit.judge_mask, EventUnit.mark_mask]
@[simp] theorem EventUnit.drainDone_destination (l : LinkState) (r : RouteId) : (e.drainDone l r).destination = e.destination := by
  simp only [EventUnit.drainDone, EventUnit.judge_destination, EventUnit.mark_destination]
@[simp] theorem EventUnit.drainDone_repeatInterval (l : LinkState) (r : RouteId) : (e.drainDone l r).repeatInterval = e.repeatInterval := by
  simp only [EventUnit.drainDone, EventUnit.judge_repeatInterval, EventUnit.mark_repeatInterval]
@[simp] theorem EventUnit.drainDone_nextNumber (l : LinkState) (r : RouteId) : (e.drainDone l r).nextNumber = e.nextNumber := by
  simp only [EventUnit.drainDone, EventUnit.judge_nextNumber, EventUnit.mark_nextNumber]
@[simp] theorem EventUnit.drainDone_outstanding (l : LinkState) (r : RouteId) : (e.drainDone l r).outstanding = e.outstanding := by
  simp only [EventUnit.drainDone, EventUnit.judge_outstanding, EventUnit.mark_outstanding]
@[simp] theorem EventUnit.drainDone_repeatTimer (l : LinkState) (r : RouteId) : (e.drainDone l r).repeatTimer = e.repeatTimer := by
  simp only [EventUnit.drainDone, EventUnit.judge_repeatTimer, EventUnit.mark_repeatTimer]

/-- A drain completion changes these fields alone. -/
theorem EventUnit.drainDone_eq (l : LinkState) (r : RouteId) :
    e.drainDone l r = { e with
      conditions := (e.drainDone l r).conditions, drained := (e.drainDone l r).drained
      state := (e.drainDone l r).state, request := (e.drainDone l r).request } := by
  refine (EventUnit.judge_eq _ l).trans ?_
  simp only [EventUnit.drainDone, EventUnit.judge_conditions, EventUnit.judge_drained]
  rfl

end Sys2Proof.Machine
end

