-- ==== Sys2Proof/Laws/Flow.lean ====
section
/-!
SUPPORT. The Flow Controller bit by bit and field by field: the held lane set, the pressure, and what its moves leave alone.
-/
namespace Sys2Proof.Machine

variable (f : FlowController) (link : LinkState)

/-- A lane's membership after a judgement (R96). -/
@[simp] theorem heldNext_getLsbD (g : FlowSettings) (old : BitVec 8) (occ : LaneId → Nat) (l : LaneId) :
    (heldNext g old occ).getLsbD l = laneHeldNext g (old.getLsbD l) (occ l) := by
  simp [heldNext]

/-- A lane set is not empty exactly when it has a member. -/
theorem lanes_ne_zero_iff (x : BitVec 8) : x ≠ 0 ↔ ∃ l : LaneId, x.getLsbD l = true := by
  constructor
  · intro h
    by_contra hc
    push Not at hc
    refine h (BitVec.eq_of_getLsbD_eq fun i hi => ?_)
    simpa using hc ⟨i, hi⟩
  · rintro ⟨l, hl⟩ rfl
    simp at hl

/-- The pressure stands when the flag is raised or a lane is held (R97). -/
theorem FlowController.pressure_iff : f.pressure = true ↔ f.poolFlag = true ∨ ∃ l : LaneId, f.heldLanes.getLsbD l = true := by
  rw [← lanes_ne_zero_iff]; simp [FlowController.pressure]

/-! ### A request -/

@[simp] theorem FlowController.requestFrame_settings (t : Nat) (ls : BitVec 8) (p : Bool) :
    (f.requestFrame link t ls p).settings = f.settings := by
  unfold FlowController.requestFrame; split <;> (try split) <;> rfl
@[simp] theorem FlowController.requestFrame_state (t : Nat) (ls : BitVec 8) (p : Bool) :
    (f.requestFrame link t ls p).state = f.state := by
  unfold FlowController.requestFrame; split <;> (try split) <;> rfl
@[simp] theorem FlowController.requestFrame_poolFlag (t : Nat) (ls : BitVec 8) (p : Bool) :
    (f.requestFrame link t ls p).poolFlag = f.poolFlag := by
  unfold FlowController.requestFrame; split <;> (try split) <;> rfl
@[simp] theorem FlowController.requestFrame_heldLanes (t : Nat) (ls : BitVec 8) (p : Bool) :
    (f.requestFrame link t ls p).heldLanes = f.heldLanes := by
  unfold FlowController.requestFrame; split <;> (try split) <;> rfl
@[simp] theorem FlowController.requestFrame_refreshTimer (t : Nat) (ls : BitVec 8) (p : Bool) :
    (f.requestFrame link t ls p).refreshTimer = f.refreshTimer := by
  unfold FlowController.requestFrame; split <;> (try split) <;> rfl

/-- The request that is pending after one was to be made (R98): the new one, where there is a destination, the link is UP and the mode
is not OFF; else the one before. -/
theorem FlowController.requestFrame_pendingHold (t : Nat) (ls : BitVec 8) (p : Bool) :
    (f.requestFrame link t ls p).pendingHold =
      match f.settings.destination with
      | none => f.pendingHold
      | some d => if link = .up ∧ f.settings.mode ≠ .off then some { holdTime := t, lanes := ls, poolFlag := p, destination := d }
          else f.pendingHold := by
  unfold FlowController.requestFrame; split <;> (try split) <;> simp_all

/-! ### The moves -/

@[simp] theorem FlowController.holdAnew_settings : (f.holdAnew link).settings = f.settings := by
  simp [FlowController.holdAnew, FlowController.startRefresh, FlowController.requestHold]
@[simp] theorem FlowController.holdAnew_state : (f.holdAnew link).state = .holding := by
  simp [FlowController.holdAnew, FlowController.startRefresh, FlowController.requestHold]
@[simp] theorem FlowController.holdAnew_poolFlag : (f.holdAnew link).poolFlag = f.poolFlag := by
  simp [FlowController.holdAnew, FlowController.startRefresh, FlowController.requestHold]
@[simp] theorem FlowController.holdAnew_heldLanes : (f.holdAnew link).heldLanes = f.heldLanes := by
  simp [FlowController.holdAnew, FlowController.startRefresh, FlowController.requestHold]
@[simp] theorem FlowController.holdAnew_refreshTimer :
    (f.holdAnew link).refreshTimer = if link = .up then some f.settings.refreshInterval else none := by
  simp [FlowController.holdAnew, FlowController.startRefresh, FlowController.requestHold]
theorem FlowController.holdAnew_pendingHold :
    (f.holdAnew link).pendingHold = (f.requestFrame link f.settings.holdTime f.heldLanes f.poolFlag).pendingHold := by
  simp [FlowController.holdAnew, FlowController.startRefresh, FlowController.requestHold, FlowController.requestFrame_pendingHold]

@[simp] theorem FlowController.release_settings : (f.release link).settings = f.settings := by
  unfold FlowController.release; split <;> simp [FlowController.requestRelease, FlowController.withdrawHold, FlowController.clear]
@[simp] theorem FlowController.release_state : (f.release link).state = .clear := by
  unfold FlowController.release; split <;> simp [FlowController.requestRelease, FlowController.withdrawHold, FlowController.clear]
@[simp] theorem FlowController.release_poolFlag : (f.release link).poolFlag = f.poolFlag := by
  unfold FlowController.release; split <;> simp [FlowController.requestRelease, FlowController.withdrawHold, FlowController.clear]
@[simp] theorem FlowController.release_heldLanes : (f.release link).heldLanes = f.heldLanes := by
  unfold FlowController.release; split <;> simp [FlowController.requestRelease, FlowController.withdrawHold, FlowController.clear]
@[simp] theorem FlowController.release_refreshTimer : (f.release link).refreshTimer = none := by
  unfold FlowController.release; split <;> simp [FlowController.requestRelease, FlowController.withdrawHold, FlowController.clear]
theorem FlowController.release_pendingHold :
    (f.release link).pendingHold =
      if f.settings.mode = .holdRelease then (f.requestFrame link 0 0 false).pendingHold else none := by
  unfold FlowController.release
  split
  · simp only [FlowController.requestRelease, FlowController.requestFrame_pendingHold, FlowController.clear]
  · rfl

@[simp] theorem FlowController.move_settings (c : Bool) : (f.move link c).settings = f.settings := by
  unfold FlowController.move; split
  · rfl
  · split <;> (try split) <;> simp
@[simp] theorem FlowController.move_poolFlag (c : Bool) : (f.move link c).poolFlag = f.poolFlag := by
  unfold FlowController.move; split
  · rfl
  · split <;> (try split) <;> simp
@[simp] theorem FlowController.move_heldLanes (c : Bool) : (f.move link c).heldLanes = f.heldLanes := by
  unfold FlowController.move; split
  · rfl
  · split <;> (try split) <;> simp

/-- The state after a judgement: HOLDING exactly under pressure, and CLEAR with mode OFF (R97). -/
theorem FlowController.move_state_iff (c : Bool) :
    (f.move link c).state = .holding ↔ f.settings.mode ≠ .off ∧ f.pressure = true := by
  unfold FlowController.move
  by_cases h : f.settings.mode = .off
  · simp [h, FlowController.clear]
  · rw [if_neg h]
    cases hs : f.state <;> cases hp : f.pressure <;> simp [h, hs]
    cases c <;> simp [hs]

/-! ### The decision of SET_FLOW -/

@[simp] theorem FlowController.decide_settings : (f.decide link).settings = f.settings := by
  unfold FlowController.decide; split
  · rfl
  · split <;> simp
@[simp] theorem FlowController.decide_poolFlag : (f.decide link).poolFlag = f.poolFlag := by
  unfold FlowController.decide; split
  · rfl
  · split <;> simp
@[simp] theorem FlowController.decide_heldLanes : (f.decide link).heldLanes = f.heldLanes := by
  unfold FlowController.decide; split
  · rfl
  · split <;> simp

/-- The state after SET_FLOW: HOLDING exactly under pressure, and CLEAR with mode OFF (R100). -/
theorem FlowController.decide_state_iff :
    (f.decide link).state = .holding ↔ f.settings.mode ≠ .off ∧ f.pressure = true := by
  unfold FlowController.decide
  by_cases h : f.settings.mode = .off
  · simp [h, FlowController.clear, FlowController.withdrawHold]
  · rw [if_neg h]
    cases hs : f.state <;> cases hp : f.pressure <;> simp [h, hs]

@[simp] theorem FlowController.withdrawUndirected_settings : f.withdrawUndirected.settings = f.settings := by
  unfold FlowController.withdrawUndirected; split <;> rfl
@[simp] theorem FlowController.withdrawUndirected_state : f.withdrawUndirected.state = f.state := by
  unfold FlowController.withdrawUndirected; split <;> rfl
@[simp] theorem FlowController.withdrawUndirected_poolFlag : f.withdrawUndirected.poolFlag = f.poolFlag := by
  unfold FlowController.withdrawUndirected; split <;> rfl
@[simp] theorem FlowController.withdrawUndirected_heldLanes : f.withdrawUndirected.heldLanes = f.heldLanes := by
  unfold FlowController.withdrawUndirected; split <;> rfl
@[simp] theorem FlowController.withdrawUndirected_refreshTimer : f.withdrawUndirected.refreshTimer = f.refreshTimer := by
  unfold FlowController.withdrawUndirected; split <;> rfl
theorem FlowController.withdrawUndirected_pendingHold :
    f.withdrawUndirected.pendingHold = if f.settings.destination = none then none else f.pendingHold := by
  unfold FlowController.withdrawUndirected; split <;> rfl

end Sys2Proof.Machine
end

