-- ==== Sys2Proof/Laws/Frames.lean ====
section
/-!
SUPPORT. Frames as bytes: what the Receiver holds after the bytes of a frame, when its CRC check passes, when it is malformed, and that
a frame that was built is read back.
-/
namespace Sys2Proof.Machine

open Sys2Proof.Safety

/-! ### The Receiver after the bytes of a frame -/

/-- What a reception holds after bytes have arrived (R110): the CRC of all but the last four, those four, the count and the stored ones. -/
theorem reception_bytes (bs : List Byte) :
    bs.foldl Reception.byte .start =
      { crc := (bs.take (bs.length - 4)).foldl crcByte crcStart
        tail := bs.drop (bs.length - 4)
        count := bs.length
        stored := bs.take 1044 } := by
  induction bs using List.reverseRecOn with
  | nil => rfl
  | append_singleton xs b ih =>
    have hs : (if xs.length < 1044 then xs.take 1044 ++ [b] else xs.take 1044) = (xs ++ [b]).take 1044 := by
      split <;> rename_i h
      · rw [List.take_of_length_le (by omega), List.take_of_length_le (by simp; omega)]
      · rw [List.take_append_of_le_length (by omega)]
    have hl : (xs.drop (xs.length - 4)).length = min xs.length 4 := by rw [List.length_drop]; omega
    rw [List.foldl_append, ih, List.foldl_cons, List.foldl_nil]
    simp only [Reception.byte, hs, hl, List.length_append, List.length_singleton]
    by_cases h : xs.length < 4
    · rw [if_pos (show min xs.length 4 < 4 by omega), if_pos (show min xs.length 4 < 4 by omega)]
      rw [show xs.length + 1 - 4 = 0 by omega, show xs.length - 4 = 0 by omega]
      simp
    · rw [if_neg (show ¬ min xs.length 4 < 4 by omega), if_neg (show ¬ min xs.length 4 < 4 by omega)]
      have e : xs.length + 1 - 4 = (xs.length - 4) + 1 := by omega
      have hd : xs.drop (xs.length - 4) = xs[xs.length - 4]'(by omega) :: xs.drop (xs.length - 4 + 1) :=
        List.drop_eq_getElem_cons (by omega)
      have ht : (xs ++ [b]).take (xs.length - 4 + 1) = xs.take (xs.length - 4) ++ [xs[xs.length - 4]'(by omega)] := by
        rw [List.take_append_of_le_length (by omega), List.take_succ_eq_append_getElem (by omega)]
      have hdr : (xs ++ [b]).drop (xs.length - 4 + 1) = xs.drop (xs.length - 4 + 1) ++ [b] :=
        List.drop_append_of_le_length (by omega)
      rw [e, hd, List.headD_cons, List.tail_cons, ht, hdr, List.foldl_append]
      rfl

/-- The CRC check passes exactly on the frames whose last four bytes are the CRC of those before (R111, R170). -/
theorem crcOk_bytes (bs : List Byte) : (bs.foldl Reception.byte .start).crcOk = !(crcFails bs) := by
  rw [reception_bytes]
  simp only [Reception.crcOk, crcFails, crc32, Bool.not_or, bne, Bool.not_not]
  congr 1
  exact decide_eq_decide.2 (by omega) |>.trans (decide_not ..)

/-- A frame with its CRC appended passes the check (R115, R170). -/
theorem crcFails_of_crc (bs : List Byte) : crcFails (bs ++ crcBytes (crc32 bs)) = false := by
  have hl : (crcBytes (crc32 bs)).length = 4 := beBytes_length 4 _
  have e : (bs ++ crcBytes (crc32 bs)).length - 4 = bs.length := by rw [List.length_append, hl]; omega
  simp only [crcFails, e, List.drop_left, List.take_left]
  simp [hl]

theorem crcFails_buildFrame (kind : Nat) (source : Source) (sequence : BitVec 16) (labels : List Nat) (body : List Byte) :
    crcFails (buildFrame kind source sequence labels body) = false := crcFails_of_crc _

/-! ### Fields of the stored bytes -/

theorem fieldAt_take (bs : List Byte) {off k n : Nat} (h : off + k ≤ n) : fieldAt (bs.take n) off k = fieldAt bs off k := by
  simp only [fieldAt, List.drop_take, List.take_take, Nat.min_eq_left (show k ≤ n - off by omega)]

theorem byteAt_take (bs : List Byte) {off n : Nat} (h : off < n) : byteAt (bs.take n) off = byteAt bs off := by
  simp only [byteAt, List.getD_eq_getElem?_getD, List.getElem?_take_of_lt h]

/-- The label stack of at least twelve bytes is read up to its bottom flag, at most three entries of it (R112, R169). -/
theorem stackEntries_eq (bs : List Byte) (h : 12 ≤ bs.length) :
    stackEntries 3 (bs.drop 6) = (labelCount bs).map fun n => (List.range n).map (labelEntry bs) := by
  have hd : bs.drop 6 = bs[6] :: bs[7] :: bs[8] :: bs[9] :: bs[10] :: bs[11] :: bs.drop 12 := by
    rw [List.drop_eq_getElem_cons (by omega), List.drop_eq_getElem_cons (by omega), List.drop_eq_getElem_cons (by omega),
      List.drop_eq_getElem_cons (by omega), List.drop_eq_getElem_cons (by omega), List.drop_eq_getElem_cons (by omega)]
  have he : ∀ k, k < 3 → labelEntry bs k = byteAt bs (6 + 2 * k) * 256 + byteAt bs (6 + 2 * k + 1) :=
    fun k hk => fieldAt_two bs _ (by omega)
  have hb : ∀ k (hk : k < bs.length), byteAt bs k = bs[k].toNat := fun k hk => by
    simp [byteAt, List.getD_eq_getElem?_getD, List.getElem?_eq_getElem hk]
  have e0 : labelEntry bs 0 = bs[6].toNat * 256 + bs[7].toNat := by rw [he 0 (by omega), hb _ (by omega), hb _ (by omega)]
  have e1 : labelEntry bs 1 = bs[8].toNat * 256 + bs[9].toNat := by rw [he 1 (by omega), hb _ (by omega), hb _ (by omega)]
  have e2 : labelEntry bs 2 = bs[10].toNat * 256 + bs[11].toNat := by rw [he 2 (by omega), hb _ (by omega), hb _ (by omega)]
  rw [hd]
  simp only [stackEntries, ← e0, ← e1, ← e2, labelCount, List.find?_cons, List.find?_nil]
  cases (labelEntry bs 0).testBit 3 <;> cases (labelEntry bs 1).testBit 3 <;> cases (labelEntry bs 2).testBit 3 <;> rfl

/-- What is read of a frame that is not malformed (R112, R169). -/
def readFrame (bs : List Byte) (n : Nat) : InFrame where
  kind     := byteAt bs 0 / 16
  source   := Fin.ofNat 64 (byteAt bs 1 / 4)
  sequence := BitVec.ofNat 16 (fieldAt bs 2 2)
  labels   := (List.range n).map fun k => labelEntry bs k / 16
  body     := ((bs.take 1044).drop (6 + 2 * n)).take (fieldAt bs 4 2)

/-- A label count is 1, 2 or 3. -/
theorem labelCount_range {bs : List Byte} {n : Nat} (h : labelCount bs = some n) : 1 ≤ n ∧ n ≤ 3 := by
  simp only [labelCount, List.find?_cons, List.find?_nil] at h
  cases h0 : (labelEntry bs 0).testBit 3 <;> cases h1 : (labelEntry bs 1).testBit 3 <;> cases h2 : (labelEntry bs 2).testBit 3 <;>
    simp [h0, h1, h2] at h <;> omega

/-- The reading of a frame fails exactly on the malformed ones, and reads the others in their positions (R112, R169). -/
theorem parseFrame_eq (bs : List Byte) :
    parseFrame bs.length (bs.take 1044) = if malformed bs then none else (labelCount bs).map (readFrame bs) := by
  by_cases hlen : 12 ≤ bs.length
  · have hst : stackEntries 3 ((bs.take 1044).drop 6) = (labelCount bs).map fun n => (List.range n).map (labelEntry bs) := by
      rw [stackEntries_eq _ (by rw [List.length_take]; omega)]
      have hl : ∀ k, k < 3 → labelEntry (bs.take 1044) k = labelEntry bs k := fun k hk => fieldAt_take bs (by omega)
      have hc : labelCount (bs.take 1044) = labelCount bs := by
        simp only [labelCount, List.find?_cons, List.find?_nil, hl 0 (by omega), hl 1 (by omega), hl 2 (by omega)]
      rw [hc]
      cases hn : labelCount bs with
      | none => rfl
      | some n =>
        have := labelCount_range hn
        simp only [Option.map_some, Option.some.injEq]
        refine List.map_congr_left fun k hk => hl k ?_
        have := List.mem_range.1 hk
        omega
    cases hn : labelCount bs with
    | none =>
      rw [hn] at hst
      have hm : malformed bs = true := by simp [malformed, hn]
      simp only [parseFrame, hst, Option.map_none, ite_self]
    | some n =>
      rw [hn] at hst
      obtain ⟨hn1, hn3⟩ := labelCount_range hn
      obtain ⟨m, rfl⟩ : ∃ m, n = m + 1 := ⟨n - 1, by omega⟩
      have hout : ((List.range (m + 1)).map fun k => labelEntry bs k / 16).headD 0 = labelEntry bs 0 / 16 := by
        rw [List.range_succ_eq_map]; rfl
      have hmap : ((List.range (m + 1)).map (labelEntry bs)).map entryLabel = (List.range (m + 1)).map fun k => labelEntry bs k / 16 := by
        rw [List.map_map]; rfl
      have hcond : malformed bs = true ↔
          (bs.length < 12 ∨ byteAt bs 0 % 16 ≠ 1 ∨ byteAt bs 1 % 4 ≠ 0 ∨
            ((List.range (m + 1)).map (labelEntry bs)).any (fun e => e % 8 != 0) ∨
            4095 ∈ ((List.range (m + 1)).map fun k => labelEntry bs k / 16) ∨
            bs.length ≠ 6 + 2 * (m + 1) + fieldAt bs 4 2 + 4 ∨
            (labelEntry bs 0 / 16 = 0 ∧ ¬ isBridgeKind (byteAt bs 0 / 16)) ∨
            (isBridgeKind (byteAt bs 0 / 16) ∧ labelEntry bs 0 / 16 ≠ 0)) := by
        have h4095 : (4095 ∈ ((List.range (m + 1)).map fun k => labelEntry bs k / 16)) ↔
            (List.range (m + 1)).any (fun k => labelEntry bs k / 16 == 4095) = true := by
          simp [List.any_eq_true]
        simp only [malformed, hn, h4095, List.any_map, Function.comp_def, isBridgeKind, kindCancel, kindMgmt, kindHold]
        simp only [Bool.or_eq_true, Bool.and_eq_true, decide_eq_true_eq, bne_iff_ne, beq_iff_eq, Bool.not_eq_true', or_assoc, ne_eq,
          Bool.or_eq_false_iff, beq_eq_false_iff_ne, not_or, and_assoc]
      unfold parseFrame
      rw [hst, byteAt_take bs (by omega), byteAt_take bs (by omega), fieldAt_take bs (by omega), fieldAt_take bs (by omega)]
      simp only [Option.map_some, hmap, hout, List.length_map, List.length_range]
      by_cases hm : malformed bs = true
      · rw [if_pos hm, if_pos (hcond.1 hm)]
      · rw [if_neg hm, if_neg (fun h => hm (hcond.2 h))]
        rfl
  · have hm : malformed bs = true := by simp [malformed, show bs.length < 12 by omega]
    rw [if_pos hm]
    simp only [parseFrame]
    cases stackEntries 3 ((bs.take 1044).drop 6) with
    | none => rfl
    | some es => exact if_pos (.inl (by omega))

/-! ### A frame that was built -/

/-- An entry with the bottom flag, and one without. -/
theorem bottom_entry (l : Nat) : (l * 16 + 8).testBit 3 = true ∧ (l * 16 + 8) % 8 = 0 ∧ (l * 16 + 8) / 16 = l := by
  refine ⟨?_, by omega, by omega⟩
  rw [Nat.testBit_eq_decide_div_mod_eq]
  simp
  omega

theorem inner_entry (l : Nat) : (l * 16).testBit 3 = false ∧ (l * 16) % 8 = 0 ∧ (l * 16) / 16 = l := by
  refine ⟨?_, by omega, by omega⟩
  rw [Nat.testBit_eq_decide_div_mod_eq]
  simp
  omega

theorem labelBytes_cons_cons (l k : Nat) (ks : List Nat) :
    labelBytes (l :: k :: ks) = beBytes 2 (l * 16) ++ labelBytes (k :: ks) := rfl

theorem labelBytes_length (labels : List Nat) : (labelBytes labels).length = 2 * labels.length := by
  induction labels with
  | nil => rfl
  | cons l ls ih =>
    cases ls with
    | nil => rfl
    | cons k ks => rw [labelBytes_cons_cons, List.length_append, ih, beBytes_length]; simp only [List.length_cons]; omega

theorem buildFrame_length (kind : Nat) (source : Source) (sequence : BitVec 16) (labels : List Nat) (body : List Byte) :
    (buildFrame kind source sequence labels body).length = 10 + 2 * labels.length + body.length := by
  simp only [buildFrame, frameBytes, crcBytes, List.length_append, List.length_cons, List.length_nil, beBytes_length, labelBytes_length]
  omega

/-- The fields of a frame as it was built: everything after the header stands behind six bytes. -/
theorem buildFrame_eq (kind : Nat) (source : Source) (sequence : BitVec 16) (labels : List Nat) (body : List Byte) :
    buildFrame kind source sequence labels body =
      BitVec.ofNat 8 (kind * 16 + 1) :: BitVec.ofNat 8 (source.val * 4) ::
        (beBytes 2 sequence.toNat ++ (beBytes 2 body.length ++ (labelBytes labels ++ (body ++
          crcBytes (crc32 (frameBytes kind source sequence labels body)))))) := by
  simp only [buildFrame, frameBytes, List.append_assoc, List.cons_append, List.nil_append]

/-- The label entries of a frame as it was built (R115). -/
theorem labelEntry_buildFrame (kind : Nat) (source : Source) (sequence : BitVec 16) (labels : List Nat) (body : List Byte) (k : Nat) :
    labelEntry (buildFrame kind source sequence labels body) k =
      fieldAt (labelBytes labels ++ (body ++ crcBytes (crc32 (frameBytes kind source sequence labels body)))) (2 * k) 2 := by
  rw [buildFrame_eq, labelEntry]
  have e : ∀ (a b : Byte) (x y z : List Byte), x.length = 2 → y.length = 2 →
      fieldAt (a :: b :: (x ++ (y ++ z))) (6 + 2 * k) 2 = fieldAt z (2 * k) 2 := by
    intro a b x y z hx hy
    have h1 : (a :: b :: (x ++ (y ++ z))) = ([a, b] ++ x ++ y) ++ z := by simp
    have h2 : 6 + 2 * k = ([a, b] ++ x ++ y).length + 2 * k := by simp [hx, hy]
    rw [h1, h2, fieldAt_add]
  exact e _ _ _ _ _ (beBytes_length 2 _) (beBytes_length 2 _)

/-- The entries of one to three labels, the bottom flag on the last alone, as they are read (R115, R169). -/
theorem labels_read {labels : List Nat} {bs post : List Byte} (h1 : 1 ≤ labels.length) (h3 : labels.length ≤ 3)
    (hl : ∀ l ∈ labels, l ≤ 4094) (he : ∀ k, labelEntry bs k = fieldAt (labelBytes labels ++ post) (2 * k) 2) :
    labelCount bs = some labels.length ∧
    ∀ k (h : k < labels.length), labelEntry bs k % 8 = 0 ∧ labelEntry bs k / 16 = labels[k]'h := by
  have two : ∀ n, n < 65536 → n < 256 ^ 2 := fun n h => by omega
  match labels, h1, h3, hl with
  | [a], _, _, hl =>
    have ha := hl a (by simp)
    have e0 : labelEntry bs 0 = a * 16 + 8 := by
      rw [he 0, Nat.mul_zero, show labelBytes [a] = beBytes 2 (a * 16 + 8) from rfl]
      exact fieldAt_zero (two _ (by omega))
    refine ⟨by simp only [labelCount, List.find?_cons, e0, (bottom_entry a).1]; rfl, fun k hk => ?_⟩
    obtain rfl : k = 0 := by simpa using hk
    rw [e0]
    exact ⟨(bottom_entry a).2.1, (bottom_entry a).2.2⟩
  | [a, b], _, _, hl =>
    have ha := hl a (by simp)
    have hb := hl b (by simp)
    have e0 : labelEntry bs 0 = a * 16 := by
      rw [he 0, Nat.mul_zero, labelBytes_cons_cons, List.append_assoc]
      exact fieldAt_zero (two _ (by omega))
    have e1 : labelEntry bs 1 = b * 16 + 8 := by
      rw [he 1, labelBytes_cons_cons, List.append_assoc, show labelBytes [b] = beBytes 2 (b * 16 + 8) from rfl]
      exact fieldAt_append (beBytes_length 2 _) (two _ (by omega))
    refine ⟨by simp only [labelCount, List.find?_cons, e0, e1, (inner_entry a).1, (bottom_entry b).1]; rfl, fun k hk => ?_⟩
    match k, hk with
    | 0, _ => rw [e0]; exact ⟨(inner_entry a).2.1, (inner_entry a).2.2⟩
    | 1, _ => rw [e1]; exact ⟨(bottom_entry b).2.1, (bottom_entry b).2.2⟩
  | [a, b, c], _, _, hl =>
    have ha := hl a (by simp)
    have hb := hl b (by simp)
    have hc := hl c (by simp)
    have e0 : labelEntry bs 0 = a * 16 := by
      rw [he 0, Nat.mul_zero, labelBytes_cons_cons, List.append_assoc]
      exact fieldAt_zero (two _ (by omega))
    have e1 : labelEntry bs 1 = b * 16 := by
      rw [he 1, labelBytes_cons_cons, labelBytes_cons_cons, List.append_assoc, List.append_assoc]
      exact fieldAt_append (beBytes_length 2 _) (two _ (by omega))
    have e2 : labelEntry bs 2 = c * 16 + 8 := by
      rw [he 2, labelBytes_cons_cons, labelBytes_cons_cons, List.append_assoc, List.append_assoc,
        ← List.append_assoc (beBytes 2 (a * 16)), show labelBytes [c] = beBytes 2 (c * 16 + 8) from rfl]
      exact fieldAt_append (by simp) (two _ (by omega))
    refine ⟨by simp only [labelCount, List.find?_cons, e0, e1, e2, (inner_entry a).1, (inner_entry b).1, (bottom_entry c).1]; rfl,
      fun k hk => ?_⟩
    match k, hk with
    | 0, _ => rw [e0]; exact ⟨(inner_entry a).2.1, (inner_entry a).2.2⟩
    | 1, _ => rw [e1]; exact ⟨(inner_entry b).2.1, (inner_entry b).2.2⟩
    | 2, _ => rw [e2]; exact ⟨(bottom_entry c).2.1, (bottom_entry c).2.2⟩

/-- A frame that was built is not malformed, when its labels are in range and its outer label fits its kind, and it is read back
(R112, R115, R169). -/
theorem parseFrame_buildFrame {kind : Nat} {source : Source} {sequence : BitVec 16} {labels : List Nat} {body bs : List Byte}
    (hbuild : bs = buildFrame kind source sequence labels body) (hk : kind < 16) (h1 : 1 ≤ labels.length)
    (h3 : labels.length ≤ 3) (hl : ∀ l ∈ labels, l ≤ 4094)
    (hlen : 10 + 2 * labels.length + body.length ≤ 1044)
    (hz : labels.headD 0 = 0 → isBridgeKind kind = true) (hb : isBridgeKind kind = true → labels.headD 0 = 0) :
    malformed bs = false ∧ labelCount bs = some labels.length ∧
    parseFrame bs.length (bs.take 1044) =
      some { kind := kind, source := source, sequence := sequence, labels := labels, body := body } := by
  have hbs : bs.length = 10 + 2 * labels.length + body.length := by rw [hbuild]; exact buildFrame_length ..
  have hrest := buildFrame_eq kind source sequence labels body
  have he := labelEntry_buildFrame kind source sequence labels body
  rw [← hbuild] at hrest he
  obtain ⟨hcount, hent⟩ := labels_read h1 h3 hl he
  have hk0 : byteAt bs 0 = kind * 16 + 1 := by
    rw [hrest, byteAt_cons_zero, BitVec.toNat_ofNat]; omega
  have hs0 : byteAt bs 1 = source.val * 4 := by
    have := source.isLt
    rw [hrest, byteAt_cons_succ, byteAt_cons_zero, BitVec.toNat_ofNat]; omega
  have hq : fieldAt bs 2 2 = sequence.toNat := by
    rw [hrest, fieldAt_cons_succ, fieldAt_cons_succ]
    exact fieldAt_zero (by have := sequence.isLt; omega)
  have hn : fieldAt bs 4 2 = body.length := by
    rw [hrest, fieldAt_cons_succ, fieldAt_cons_succ]
    exact fieldAt_append (beBytes_length 2 _) (by omega)
  have hhead : labelEntry bs 0 / 16 = labels.headD 0 := by
    rw [(hent 0 h1).2]
    cases labels with
    | nil => exact absurd h1 (by simp)
    | cons a as => rfl
  have hmal : malformed bs = false := by
    have hm : ∀ k ∈ List.range labels.length, labelEntry bs k % 8 = 0 ∧ labelEntry bs k / 16 ≤ 4094 := fun k hk => by
      have hk := List.mem_range.1 hk
      exact ⟨(hent k hk).1, by rw [(hent k hk).2]; exact hl _ (List.getElem_mem hk)⟩
    have m1 : (List.range labels.length).any (fun k => labelEntry bs k % 8 != 0) = false := by
      rw [List.any_eq_false]; intro k hk; simp [(hm k hk).1]
    have m2 : (List.range labels.length).any (fun k => labelEntry bs k / 16 == 4095) = false := by
      rw [List.any_eq_false]; intro k hk; have := (hm k hk).2; simp; omega
    have d : byteAt bs 0 / 16 = kind := by rw [hk0]; omega
    have v : byteAt bs 0 % 16 = 1 := by rw [hk0]; omega
    have w : byteAt bs 1 % 4 = 0 := by rw [hs0]; omega
    simp only [malformed, hcount, m1, m2, d, v, w, hhead, hn, hbs]
    simp only [isBridgeKind, kindCancel, kindMgmt, kindHold] at hz hb
    have hlen12 : decide (10 + 2 * labels.length + body.length < 12) = false := by simp; omega
    have hsum : (10 + 2 * labels.length + body.length != 6 + 2 * labels.length + body.length + 4) = false := by simp; omega
    rw [hlen12, hsum]
    revert hz hb
    generalize labels.headD 0 = outer
    cases (kind == 2 || kind == 3 || kind == 4) <;> intro hz hb
    · have : outer ≠ 0 := fun h => by simpa using hz h
      simp [this]
    · simp [hb rfl]
  refine ⟨hmal, hcount, ?_⟩
  rw [parseFrame_eq, hmal, hcount]
  simp only [Bool.false_eq_true, if_false, Option.map_some, readFrame, hk0, hs0, hq, hn]
  have hlabels : ((List.range labels.length).map fun k => labelEntry bs k / 16) = labels := by
    refine List.ext_getElem (by simp) fun k h _ => ?_
    rw [List.getElem_map, List.getElem_range]
    exact (hent k (by simpa using h)).2
  have hbody : ((bs.take 1044).drop (6 + 2 * labels.length)).take body.length = body := by
    have hpre : bs = ([BitVec.ofNat 8 (kind * 16 + 1), BitVec.ofNat 8 (source.val * 4)] ++ beBytes 2 sequence.toNat ++
        beBytes 2 body.length ++ labelBytes labels) ++ (body ++ crcBytes (crc32 (frameBytes kind source sequence labels body))) := by
      rw [hrest]; simp only [List.append_assoc, List.cons_append, List.nil_append]
    have ht : bs.take 1044 = bs := List.take_of_length_le (by rw [hbs]; omega)
    rw [ht, hpre, List.drop_left' (by simp [labelBytes_length]; omega), List.take_left]
  rw [hlabels, hbody]
  congr 1
  simp only [InFrame.mk.injEq, and_true]
  refine ⟨by omega, ?_, ?_⟩
  · have := source.isLt
    apply Fin.ext
    simp only [Fin.ofNat, show source.val * 4 / 4 = source.val by omega]
    omega
  · simp

end Sys2Proof.Machine
end

