-- ==== Sys2Proof/Laws/Memory.lean ====
section
/-!
SUPPORT. The cell memory: a read gives what was written, a write leaves every other byte alone, and every operation keeps the one
canonical form.
-/
namespace Sys2Proof.Machine

/-! ### One byte -/

theorem readByte_consByte (x : Nat) (v : Byte) (m : Memory) (y : Nat) (h : x = y → v = Memory.unlisted → readByte m y = v) :
    readByte (consByte x v m) y = if x = y then v else readByte m y := by
  unfold consByte
  split
  · split
    · exact h ‹_› ‹_›
    · rfl
  · rfl

/-- Below every listed address nothing is listed. -/
theorem readByte_below (m : Memory) (x : Nat) (h : ∀ c ∈ m, x < c.1) : readByte m x = Memory.unlisted := by
  induction m with
  | nil => rfl
  | cons c m ih =>
    have hc : x < c.1 := h c (List.mem_cons_self ..)
    simp only [readByte]
    rw [if_neg (Nat.ne_of_gt hc)]
    exact ih fun d hd => h d (List.mem_cons_of_mem _ hd)

theorem Memory.wf_tail {c : Host.Cell} {m : Memory} (h : Memory.wf (c :: m)) : Memory.wf m :=
  ⟨(List.pairwise_cons.1 h.1).2, fun d hd => h.2 d (List.mem_cons_of_mem _ hd)⟩

theorem Memory.wf_cons {c : Host.Cell} {m : Memory} (hm : Memory.wf m) (hlt : ∀ d ∈ m, c.1 < d.1) (hv : c.2 ≠ Memory.unlisted) :
    Memory.wf (c :: m) :=
  ⟨List.pairwise_cons.2 ⟨hlt, hm.1⟩, fun d hd => by
    rcases List.mem_cons.1 hd with rfl | hd
    · exact hv
    · exact hm.2 d hd⟩

theorem Memory.wf_consByte {x : Nat} {v : Byte} {m : Memory} (hm : Memory.wf m) (hlt : ∀ d ∈ m, x < d.1) :
    Memory.wf (consByte x v m) := by
  unfold consByte
  split
  · exact hm
  · exact Memory.wf_cons hm hlt ‹_›

theorem mem_consByte {x : Nat} {v : Byte} {m : Memory} {d : Host.Cell} (h : d ∈ consByte x v m) : d = (x, v) ∨ d ∈ m := by
  unfold consByte at h
  split at h
  · exact .inr h
  · exact List.mem_cons.1 h

theorem mem_writeByte {x : Nat} {v : Byte} {m : Memory} {d : Host.Cell} (h : d ∈ writeByte x v m) : d.1 = x ∨ d ∈ m := by
  induction m with
  | nil =>
    rcases mem_consByte h with rfl | h
    · exact .inl rfl
    · exact .inr h
  | cons c m ih =>
    simp only [writeByte] at h
    split at h
    · rcases mem_consByte h with rfl | h
      · exact .inl rfl
      · exact .inr h
    · split at h
      · rcases mem_consByte h with rfl | h
        · exact .inl rfl
        · exact .inr (List.mem_cons_of_mem _ h)
      · rcases List.mem_cons.1 h with rfl | h
        · exact .inr (List.mem_cons_self ..)
        · rcases ih h with h | h
          · exact .inl h
          · exact .inr (List.mem_cons_of_mem _ h)

/-- A write keeps the canonical form. -/
theorem writeByte_wf (x : Nat) (v : Byte) {m : Memory} (hm : Memory.wf m) : Memory.wf (writeByte x v m) := by
  induction m with
  | nil => exact Memory.wf_consByte hm (by simp)
  | cons c m ih =>
    have hlt := (List.pairwise_cons.1 hm.1).1
    simp only [writeByte]
    split
    · rename_i hx
      refine Memory.wf_consByte hm fun d hd => ?_
      rcases List.mem_cons.1 hd with rfl | hd
      · exact hx
      · exact Nat.lt_trans hx (hlt d hd)
    · split
      · rename_i hx
        exact Memory.wf_consByte (Memory.wf_tail hm) fun d hd => hx ▸ hlt d hd
      · rename_i h1 h2
        refine Memory.wf_cons (ih (Memory.wf_tail hm)) (fun d hd => ?_) (hm.2 c (List.mem_cons_self ..))
        rcases mem_writeByte hd with h | h
        · omega
        · exact hlt d h

/-- A read after a write: the value written at its address, every other byte as before. -/
theorem readByte_writeByte (x : Nat) (v : Byte) {m : Memory} (hm : Memory.wf m) (y : Nat) :
    readByte (writeByte x v m) y = if x = y then v else readByte m y := by
  induction m with
  | nil =>
    refine readByte_consByte x v [] y fun _ h2 => ?_
    rw [h2]; rfl
  | cons c m ih =>
    have hlt := (List.pairwise_cons.1 hm.1).1
    simp only [writeByte]
    split
    · rename_i hx
      refine readByte_consByte x v _ y fun h1 h2 => ?_
      rw [h2]
      refine readByte_below _ _ fun d hd => ?_
      rcases List.mem_cons.1 hd with rfl | hd
      · omega
      · have := hlt d hd; omega
    · split
      · rename_i hx
        rw [readByte_consByte x v m y fun h1 h2 => by
          rw [h2]
          refine readByte_below _ _ fun d hd => ?_
          have := hlt d hd; omega]
        simp only [readByte, ← hx]
        split
        · rfl
        · rfl
      · rename_i h1 h2
        simp only [readByte]
        rw [ih (Memory.wf_tail hm)]
        split
        · rename_i hy
          rw [if_neg (by omega)]
        · rfl

/-! ### Runs of bytes -/

/-- Storing bytes keeps the canonical form. -/
theorem storeBytes_wf (cells : List Nat) (k : Nat) (bs : List Byte) {m : Memory} (hm : Memory.wf m) :
    Memory.wf (storeBytes cells k bs m) := by
  induction bs generalizing k m with
  | nil => exact hm
  | cons b bs ih => exact ih (k + 1) (writeByte_wf _ _ hm)

/-- Storing bytes leaves every byte alone that is none of those stored to. -/
theorem readByte_storeBytes_of_ne (cells : List Nat) (k : Nat) (bs : List Byte) {m : Memory} (hm : Memory.wf m) (y : Nat)
    (h : ∀ j, j < bs.length → dataAddr cells (k + j) ≠ y) : readByte (storeBytes cells k bs m) y = readByte m y := by
  induction bs generalizing k m with
  | nil => rfl
  | cons b bs ih =>
    simp only [storeBytes]
    rw [ih (k + 1) (writeByte_wf _ _ hm) fun j hj => by
      have := h (j + 1) (by simpa using hj)
      rwa [show k + 1 + j = k + (j + 1) from by omega]]
    rw [readByte_writeByte _ _ hm, if_neg (by simpa using h 0 (by simp))]

/-- Where the addresses of stored bytes differ, each reads as the byte stored. -/
theorem readByte_storeBytes (cells : List Nat) (k : Nat) (bs : List Byte) {m : Memory} (hm : Memory.wf m)
    (hinj : ∀ i j, i < bs.length → j < bs.length → dataAddr cells (k + i) = dataAddr cells (k + j) → i = j)
    (j : Nat) (hj : j < bs.length) : readByte (storeBytes cells k bs m) (dataAddr cells (k + j)) = bs[j] := by
  induction bs generalizing k m j with
  | nil => exact absurd hj (by simp)
  | cons b bs ih =>
    simp only [storeBytes]
    cases j with
    | zero =>
      rw [readByte_storeBytes_of_ne _ _ _ (writeByte_wf _ _ hm) _ fun i hi heq => by
        have := hinj (i + 1) 0 (by simpa using hi) (by simp)
          (by rw [show k + (i + 1) = k + 1 + i from by omega]; exact heq)
        omega]
      rw [readByte_writeByte _ _ hm, if_pos (by simp)]
      rfl
    | succ j =>
      have hj' : j < bs.length := by simpa using hj
      have := ih (k + 1) (writeByte_wf (dataAddr cells k) b hm) (fun i i' hi hi' heq => by
        have := hinj (i + 1) (i' + 1) (by simpa using hi) (by simpa using hi')
          (by rw [show k + (i + 1) = k + 1 + i from by omega, show k + (i' + 1) = k + 1 + i' from by omega]; exact heq)
        omega) j hj'
      rw [show k + (j + 1) = k + 1 + j from by omega]
      rw [this]; rfl

/-- Different bytes of different cells have different addresses. -/
theorem dataAddr_injective {cells : List Nat} (hc : cells.Nodup) {i j : Nat} (hi : i / 32 < cells.length) (hj : j / 32 < cells.length)
    (h : dataAddr cells i = dataAddr cells j) : i = j := by
  simp only [dataAddr, List.getD_eq_getElem?_getD, List.getElem?_eq_getElem hi, List.getElem?_eq_getElem hj, Option.getD_some] at h
  have hcell : cells[i / 32] = cells[j / 32] := by omega
  have : i / 32 = j / 32 := (hc.getElem_inj_iff).1 hcell
  omega

/-- Bytes stored at the head of distinct cells are read back before what the cells held of the rest. -/
theorem loadBytes_storeBytes_prefix {cells : List Nat} (hc : cells.Nodup) (bs : List Byte) {n : Nat} (hn : bs.length ≤ n)
    (hfit : cellsFor n ≤ cells.length) {m : Memory} (hm : Memory.wf m) :
    loadBytes cells n (storeBytes cells 0 bs m) = bs ++ (loadBytes cells n m).drop bs.length := by
  unfold cellsFor at hfit
  have hinj : ∀ i j, i < n → j < n → dataAddr cells (0 + i) = dataAddr cells (0 + j) → i = j := fun i j hi hj heq => by
    simp only [Nat.zero_add] at heq
    exact dataAddr_injective hc (by omega) (by omega) heq
  refine List.ext_getElem (by simp [loadBytes]; omega) fun j h1 h2 => ?_
  have hj : j < n := by simpa [loadBytes] using h1
  by_cases h : j < bs.length
  · have := readByte_storeBytes cells 0 bs hm (fun i i' hi hi' => hinj i i' (by omega) (by omega)) j h
    rw [List.getElem_append_left h]
    simpa [loadBytes] using this
  · have := readByte_storeBytes_of_ne cells 0 bs hm (dataAddr cells (0 + j)) fun i hi heq => by
      have := hinj i j (by omega) hj heq
      omega
    rw [List.getElem_append_right (by omega)]
    simp only [loadBytes, List.getElem_map, List.getElem_range, List.getElem_drop]
    rw [show bs.length + (j - bs.length) = j from by omega]
    simpa using this

/-- Bytes stored in distinct cells are the bytes loaded from them. -/
theorem loadBytes_storeBytes {cells : List Nat} (hc : cells.Nodup) (bs : List Byte) (hfit : cellsFor bs.length ≤ cells.length) {m : Memory}
    (hm : Memory.wf m) : loadBytes cells bs.length (storeBytes cells 0 bs m) = bs := by
  rw [loadBytes_storeBytes_prefix hc bs le_rfl hfit hm, List.drop_eq_nil_of_le (by simp [loadBytes]), List.append_nil]

/-- Storing in some cells leaves what other cells hold. -/
theorem loadBytes_storeBytes_of_disjoint {cells others : List Nat} (h : ∀ c ∈ others, c ∉ cells) (bs : List Byte)
    (hfit : cellsFor bs.length ≤ cells.length) (n : Nat) (hn : cellsFor n ≤ others.length) {m : Memory} (hm : Memory.wf m) :
    loadBytes others n (storeBytes cells 0 bs m) = loadBytes others n m := by
  unfold cellsFor at hfit hn
  unfold loadBytes
  refine List.map_congr_left fun k hk => ?_
  have hk : k < n := by simpa using hk
  refine readByte_storeBytes_of_ne _ _ _ hm _ fun j hj heq => ?_
  have hjl : j / 32 < cells.length := by omega
  have hkl : k / 32 < others.length := by omega
  simp only [dataAddr, List.getD_eq_getElem?_getD, Nat.zero_add, List.getElem?_eq_getElem hjl, List.getElem?_eq_getElem hkl,
    Option.getD_some] at heq
  have : cells[j / 32] = others[k / 32] := by omega
  exact h _ (List.getElem_mem hkl) (this ▸ List.getElem_mem hjl)

end Sys2Proof.Machine
end

