-- ==== Sys2Proof/Laws/Lanes.lean ====
section
/-!
SUPPORT. The words an attempt captures, as bytes in its read cells; how long an attempt lasts; the levels outside an attempt.
-/
namespace Sys2Proof.Machine

variable {g : RouteConfig} {t : Slot} {s : State}

/-! ### Captured words -/

@[simp] theorem capturedBytes_length (din : List Bool) (n : Nat) : (capturedBytes g t din n).length = n * t.wordBytes := by
  simp [capturedBytes]

/-- Each captured word fills its own word bytes, right-justified (R72). -/
theorem capturedBytes_word (din : List Bool) {n j : Nat} (h : j < n) :
    ((capturedBytes g t din n).drop (j * t.wordBytes)).take t.wordBytes = beBytes t.wordBytes (capturedWord g t din j) := by
  have hsplit : capturedBytes g t din n =
      capturedBytes g t din j ++ (beBytes t.wordBytes (capturedWord g t din j) ++
        (List.range (n - j - 1)).flatMap fun k => beBytes t.wordBytes (capturedWord g t din (j + 1 + k))) := by
    obtain ⟨k, rfl⟩ : ∃ k, n = j + (k + 1) := ⟨n - j - 1, by omega⟩
    rw [show j + (k + 1) - j - 1 = k from by omega]
    simp only [capturedBytes]
    rw [List.range_add, List.flatMap_append, List.range_succ_eq_map]
    simp [List.flatMap_map, Nat.add_assoc, Nat.add_comm 1]
  rw [hsplit, List.drop_left' (by simp), List.take_left' (by simp)]

/-- An attempt cut short has captured at most the words it captures when it runs to its end (R79). -/
theorem wordsCapturedBy_le (elapsed : Nat) : wordsCapturedBy g t elapsed ≤ capturedWords t := by
  unfold wordsCapturedBy
  exact (List.length_filter_le ..).trans (by simp)

/-- What storing captured words leaves in the read cells: the words captured, and past them what the cells held (R72, R79). -/
theorem storeCaptured_load {i : SlotId} (din : List Bool) {n total : Nat} (hm : s.mem.wf) (hc : (s.slot i).readCells.Nodup)
    (hn : n * (s.slot i).wordBytes ≤ total) (hfit : cellsFor total ≤ (s.slot i).readCells.length) :
    loadBytes (s.slot i).readCells total (storeCaptured i din n s).mem =
      capturedBytes (s.slotRoute i) (s.slot i) din n ++ (loadBytes (s.slot i).readCells total s.mem).drop (n * (s.slot i).wordBytes) := by
  have := loadBytes_storeBytes_prefix hc (capturedBytes (s.slotRoute i) (s.slot i) din n) (n := total) (by simpa using hn) hfit hm
  rwa [capturedBytes_length] at this

/-! ### The length of an attempt -/

/-- An attempt lasts half a bit period and its bits, or to its last capture where the sample delay brings that later (R75). -/
theorem attemptPeriods_eq (he : g.clockDivisor % 2 = 0) :
    attemptPeriods g t =
      if laneBits g t = 0 then g.clockDivisor
      else g.clockDivisor / 2 + laneBits g t * g.clockDivisor +
        (if capturedWords t = 0 then 0 else g.sampleDelay - g.clockDivisor / 2) := by
  unfold attemptPeriods
  split
  · rfl
  · next h =>
    obtain ⟨n, hn⟩ : ∃ n, laneBits g t = n + 1 := ⟨laneBits g t - 1, by omega⟩
    have hm : (n + 1) * g.clockDivisor = n * g.clockDivisor + g.clockDivisor := Nat.succ_mul ..
    dsimp only
    split
    · omega
    · rw [hn, Nat.add_sub_cancel, hm]
      cases hcap : g.captureEdge <;> simp only [captureTime, bitStart, firstEdge, secondEdge, hcap] <;> omega

/-! ### Outside an attempt -/

theorem shiftingSlot_none {l : LaneId} (h : (s.lane l).state ≠ .shifting) : shiftingSlot s l = none := by
  unfold shiftingSlot; split
  · exact absurd ‹_› h
  · rfl

/-- Outside SHIFTING the clock stands at the clock level (R66, R69, R80, R85). -/
theorem clockPin_of_not_shifting {l : LaneId} (hr : s.resetLine = false) (h : (s.lane l).state ≠ .shifting) (time : Nat) :
    clockPin s l time = PinLevel.ofLevel (s.lane l).clockLevel := by
  simp [clockPin, hr, shiftingSlot_none h]

/-- Outside SHIFTING the data output is low (R66). -/
theorem dataPin_of_not_shifting {l : LaneId} (hr : s.resetLine = false) (h : (s.lane l).state ≠ .shifting) (time : Nat) :
    dataPin s l time = some .low := by
  simp [dataPin, hr, shiftingSlot_none h]

end Sys2Proof.Machine
end

