-- ==== Sys2Proof/Laws/Operands.lean ====
section
/-!
SUPPORT. Operands read back as they were laid out: destinations, the flow settings block, the operands of the lanes and routes.
-/
namespace Sys2Proof.Machine

open Sys2Proof.Safety

theorem byteAt_nat (b : Byte) (bs : List Byte) : byteAt (b :: bs) 0 = b.toNat := rfl

/-- A stack is in range when it has 1 to 3 labels, the first 1 to 4094 and each at most 4094 (R171). -/
theorem stackInRange_iff {stack : List Nat} :
    stackInRange stack = true ↔ (1 ≤ stack.length ∧ stack.length ≤ 3) ∧ 1 ≤ stack.headD 0 ∧ ∀ l ∈ stack, l ≤ 4094 := by
  cases stack with
  | nil => simp [stackInRange]
  | cons l ls =>
    simp only [stackInRange, Bool.and_eq_true, decide_eq_true_eq, List.all_eq_true, List.length_cons, List.headD_cons, List.mem_cons,
      forall_eq_or_imp]
    constructor
    · rintro ⟨⟨⟨h1, h2⟩, h3⟩, h4⟩; exact ⟨⟨by omega, by omega⟩, h1, h2, h3⟩
    · rintro ⟨⟨h1, h2⟩, h3, h4, h5⟩; exact ⟨⟨⟨h3, h4⟩, h5⟩, by omega⟩

/-- The labels that a destination's bytes carry, `n` of them. -/
def labelsAt (bs : List Byte) (n : Nat) : List Nat := (List.range n).map fun k => fieldAt bs (2 + 2 * k) 2

theorem labelsAt_headD (bs : List Byte) {n : Nat} (h : 1 ≤ n) : (labelsAt bs n).headD 0 = fieldAt bs 2 2 := by
  obtain ⟨n, rfl⟩ : ∃ m, n = m + 1 := ⟨n - 1, by omega⟩
  simp [labelsAt, List.range_succ_eq_map]

/-- Bytes that spell a destination in range, or none, are read as it (R171). -/
theorem readDestination_of_spells {bs : List Byte} {dest : Option Destination} (h : Spells bs dest) : readDestination bs = some dest := by
  cases dest with
  | none => exact if_pos h
  | some d =>
    obtain ⟨source, stack⟩ := d
    obtain ⟨hs, hn, hlen, hk, hhead, hall⟩ := h
    dsimp only at hs hn hlen hk hhead hall
    have hlabels : labelsAt bs (byteAt bs 1) = stack := by
      rw [hn]
      refine List.ext_getElem (by simp [labelsAt]) fun k h1 h2 => ?_
      simp only [labelsAt, List.getElem_map, List.getElem_range]
      rw [hk k h2, List.getD_eq_getElem?_getD, List.getElem?_eq_getElem h2, Option.getD_some]
    have hsl := source.isLt
    unfold readDestination
    dsimp only
    rw [if_neg (by omega), if_neg (by omega), show (List.range (byteAt bs 1)).map (fun k => fieldAt bs (2 + 2 * k) 2) = stack from hlabels,
      if_pos (stackInRange_iff.2 ⟨hlen, hhead, hall⟩), hs]
    simp

/-- Bytes that spell a destination out of range are refused (R171). -/
theorem readDestination_of_spellsNone {bs : List Byte} (h : SpellsNone bs) : readDestination bs = none := by
  obtain ⟨h0, h⟩ := h
  unfold readDestination
  dsimp only
  rw [if_neg h0]
  split
  · rfl
  · next hr =>
    refine if_neg fun hc => ?_
    obtain ⟨-, hhead, hall⟩ := stackInRange_iff.1 hc
    have hhead' : 1 ≤ fieldAt bs 2 2 := by rw [← labelsAt_headD bs (n := byteAt bs 1) (by omega)]; exact hhead
    rcases h with h | h | h | h | ⟨k, hk, hl⟩
    · omega
    · omega
    · omega
    · omega
    · have := hall (fieldAt bs (2 + 2 * k) 2) (List.mem_map.2 ⟨k, List.mem_range.2 hk, rfl⟩)
      omega

@[simp] theorem destinationBytes_length (d : Option Destination) : (destinationBytes d).length = 8 := by
  cases d <;> rfl

@[simp] theorem flowBlock_length (g : FlowSettings) : (flowBlock g).length = 19 := by
  simp [flowBlock]

@[simp] theorem FlowMode.ofCode_code (m : FlowMode) : FlowMode.ofCode m.code = some m := by cases m <;> rfl

theorem FlowMode.ofCode_none {n : Nat} (h : 2 < n) : FlowMode.ofCode n = none := by
  unfold FlowMode.ofCode; split <;> first | omega | rfl

/-- Bytes that spell flow settings are read as those settings when they are in range, and refused otherwise (R100). -/
theorem readFlowBlock_of_spells {bs : List Byte} {g : FlowSettings} (h : SpellsFlow bs g) :
    (FlowRanges g → readFlowBlock bs = some g) ∧ (¬ FlowRanges g → readFlowBlock bs = none) := by
  obtain ⟨h0, h1, h2, h3, h4, h5, h6, h7⟩ := h
  have hread : readFlowBlock bs =
      if g.poolHold ≤ 1023 ∧ g.poolHold < g.poolRelease ∧ g.poolRelease ≤ 1024 ∧ 1 ≤ g.laneHold ∧ g.laneHold ≤ 16
        ∧ g.laneRelease < g.laneHold ∧ g.holdTime ≠ 0 ∧ g.refreshInterval ≠ 0 then some g else none := by
    unfold readFlowBlock
    rw [h0, readDestination_of_spells h7, h1, h2, h3, h4, h5, h6, FlowMode.ofCode_code]
    rfl
  rw [hread]
  refine ⟨fun h => if_pos ?_, fun h => if_neg fun hc => h ?_⟩
  · obtain ⟨a, b, c, d, e, f', i⟩ := h
    exact ⟨a, b, c, by omega, e, d, by omega, by omega⟩
  · obtain ⟨a, b, c, d, e, f', i, j⟩ := hc
    exact ⟨a, b, c, f', e, by omega, by omega⟩

/-- A mode code that names no mode, or a destination out of range, is refused (R171). -/
theorem readFlowBlock_none {bs : List Byte} (h : 2 < byteAt bs 0 ∨ SpellsNone (bs.drop 11)) : readFlowBlock bs = none := by
  unfold readFlowBlock
  rcases h with h | h
  · rw [FlowMode.ofCode_none h]; rfl
  · rw [readDestination_of_spellsNone h]
    cases FlowMode.ofCode (byteAt bs 0) <;> rfl

/-- A lane operand in range names its lane (R140, R141). -/
theorem laneOf_eq {l : LaneId} {n : Byte} (h : l.val = n.toNat) : laneOf n.toNat = some l := by
  simp [laneOf, ← h]

theorem laneOf_none {n : Byte} (h : 8 ≤ n.toNat) : laneOf n.toNat = none := by
  simp [laneOf]; omega

/-- A route operand in range names its entry (R137 to R139). -/
theorem routeOf_eq {r : RouteId} {n : Byte} (h : r.val = n.toNat) : routeOf n.toNat = some r := by
  simp [routeOf, ← h]

theorem routeOf_none {n : Byte} (h : 128 ≤ n.toNat) : routeOf n.toNat = none := by
  simp [routeOf]; omega

/-- A yes/no or on/off operand (R171). -/
theorem boolOf_eq {b : Byte} (h : b = 0 ∨ b = 1) : boolOf b.toNat = some (decide (b = 1)) := by
  rcases h with rfl | rfl <;> rfl

theorem boolOf_none {b : Byte} (h : 1 < b.toNat) : boolOf b.toNat = none := by
  unfold boolOf
  split
  · omega
  · omega
  · rfl

end Sys2Proof.Machine
end

