-- ==== Sys2Proof/Laws/Slots.lean ====
section
/-!
SUPPORT. What freeing slots, deciding an outcome and the retry can do, field by field.
-/
namespace Sys2Proof.Machine

variable (is : List SlotId) (s : State)

/-! ### Drains completed together -/

/-- Drains completed one after another list each entry once (R59, R162). -/
theorem foldl_drainDone_drained (l : LinkState) (rs : List RouteId) (hrs : rs.Nodup) (e : EventUnit) :
    (rs.foldl (fun e r => e.drainDone l r) e).drained = e.drained ++ rs.filter fun r => !(e.drained.contains r) := by
  induction rs generalizing e with
  | nil => simp
  | cons r rs ih =>
    obtain ⟨hr, hrs⟩ := List.nodup_cons.1 hrs
    have hf : rs.filter (fun q => !((e.drained ++ [r]).contains q)) = rs.filter fun q => !(e.drained.contains q) := by
      refine List.filter_congr fun q hq => ?_
      have : q ≠ r := fun h => hr (h ▸ hq)
      simp [this]
    rw [List.foldl_cons, ih hrs, EventUnit.drainDone_drained]
    by_cases h : r ∈ e.drained
    · simp [h]
    · rw [if_neg h, hf, List.filter_cons]
      simp [h]

theorem foldl_drainDone_cond (l : LinkState) (rs : List RouteId) (e : EventUnit) (c : Condition) :
    (rs.foldl (fun e r => e.drainDone l r) e).cond c = if c = .drainDone ∧ rs ≠ [] then .unreported else e.cond c := by
  induction rs generalizing e with
  | nil => simp
  | cons r rs ih =>
    rw [List.foldl_cons, ih, EventUnit.drainDone_cond]
    by_cases hc : c = .drainDone
    · simp [hc]
    · simp [hc]

/-- A marked DRAIN_DONE is marked once, whatever list and judgement go with it. -/
theorem EventUnit.mark_drainDone_conditions (l : LinkState) (r : RouteId) (e : EventUnit) :
    ((e.drainDone l r).mark .drainDone).conditions = (e.mark .drainDone).conditions :=
  EventUnit.conditions_eq fun c => by
    rw [EventUnit.mark_cond, EventUnit.mark_cond, EventUnit.drainDone_cond]; split <;> rfl

/-- Drains completed together leave the event state and the pending request that one judgement of the marked condition leaves
(R59, R162, R163). -/
theorem foldl_drainDone_judged (l : LinkState) (rs : List RouteId) (hrs : rs ≠ []) (e : EventUnit) :
    (rs.foldl (fun e r => e.drainDone l r) e).state = ((e.mark .drainDone).judge l).state ∧
    (rs.foldl (fun e r => e.drainDone l r) e).request = ((e.mark .drainDone).judge l).request := by
  have one : ∀ (r : RouteId) (e : EventUnit), (e.drainDone l r).state = ((e.mark .drainDone).judge l).state ∧
      (e.drainDone l r).request = ((e.mark .drainDone).judge l).request := by
    intro r e
    simp only [EventUnit.drainDone, EventUnit.judge_state, EventUnit.judge_request]
    exact ⟨rfl, rfl⟩
  induction rs generalizing e with
  | nil => exact absurd rfl hrs
  | cons r rs ih =>
    rw [List.foldl_cons]
    cases rs with
    | nil => exact one r e
    | cons q rs =>
      obtain ⟨h1, h2⟩ := ih (by simp) (e.drainDone l r)
      obtain ⟨g1, g2⟩ := one r e
      have hc : ((e.drainDone l r).mark .drainDone).hasNews = (e.mark .drainDone).hasNews :=
        EventUnit.hasNews_congr (e.mark_drainDone_conditions l r) (by simp)
      rw [h1, h2]
      simp only [EventUnit.judge_state, EventUnit.judge_request, hc, EventUnit.mark_state, EventUnit.mark_destination,
        EventUnit.mark_request, EventUnit.drainDone_destination] at *
      rw [g1, g2]
      by_cases h : e.state = .quiet ∧ e.destination.isSome = true ∧ l = .up ∧ (e.mark .drainDone).hasNews = true <;> simp [h]

/-- Drains completed together change these fields of the Event Unit alone. -/
theorem foldl_drainDone_eq (l : LinkState) (rs : List RouteId) (e : EventUnit) :
    rs.foldl (fun e r => e.drainDone l r) e =
      { e with
        conditions := (rs.foldl (fun e r => e.drainDone l r) e).conditions
        drained := (rs.foldl (fun e r => e.drainDone l r) e).drained
        state := (rs.foldl (fun e r => e.drainDone l r) e).state
        request := (rs.foldl (fun e r => e.drainDone l r) e).request } := by
  induction rs generalizing e with
  | nil => rfl
  | cons r rs ih =>
    refine (ih (e.drainDone l r)).trans ?_
    simp only [List.foldl_cons, EventUnit.drainDone_contentionSet, EventUnit.drainDone_timeoutSet, EventUnit.drainDone_mask,
      EventUnit.drainDone_destination, EventUnit.drainDone_repeatInterval, EventUnit.drainDone_nextNumber,
      EventUnit.drainDone_outstanding, EventUnit.drainDone_repeatTimer]

/-! ### freeSlots -/

@[simp] theorem freeSlots_queues : (freeSlots is s).queues = s.queues := by simp only [freeSlots]
@[simp] theorem freeSlots_completion : (freeSlots is s).completion = s.completion := by simp only [freeSlots]
@[simp] theorem freeSlots_lanes : (freeSlots is s).lanes = s.lanes := by simp only [freeSlots]
@[simp] theorem freeSlots_mem : (freeSlots is s).mem = s.mem := by simp only [freeSlots]
@[simp] theorem freeSlots_flow : (freeSlots is s).flow = s.flow := by simp only [freeSlots]
@[simp] theorem freeSlots_receiver : (freeSlots is s).receiver = s.receiver := by simp only [freeSlots]
@[simp] theorem freeSlots_trans : (freeSlots is s).trans = s.trans := by simp only [freeSlots]
@[simp] theorem freeSlots_agent : (freeSlots is s).agent = s.agent := by simp only [freeSlots]
@[simp] theorem freeSlots_counters : (freeSlots is s).counters = s.counters := by simp only [freeSlots]
@[simp] theorem freeSlots_timeBase : (freeSlots is s).timeBase = s.timeBase := by simp only [freeSlots]
@[simp] theorem freeSlots_resetLine : (freeSlots is s).resetLine = s.resetLine := by simp only [freeSlots]
@[simp] theorem freeSlots_draws : (freeSlots is s).draws = s.draws := by simp only [freeSlots]
@[simp] theorem freeSlots_pending : (freeSlots is s).pending = s.pending := by simp only [freeSlots]
@[simp] theorem freeSlots_queue (l : LaneId) : (freeSlots is s).queue l = s.queue l := by simp only [freeSlots, State.queue]
@[simp] theorem freeSlots_lane (l : LaneId) : (freeSlots is s).lane l = s.lane l := by simp only [freeSlots, State.lane]
@[simp] theorem freeSlots_freeCells :
    (freeSlots is s).freeCells = s.freeCells + (is.map fun i => (s.slot i).cells.length).sum := by simp only [freeSlots]

/-- The Event Unit after a freeing has the drains it completed, in ascending order of index (R59). -/
theorem freeSlots_events :
    (freeSlots is s).events = (drainedBy is s).foldl (fun e r => e.drainDone s.receiver.link r) s.events := by
  simp only [freeSlots]

/-- Freeing changes these fields alone. -/
theorem freeSlots_eq :
    freeSlots is s =
      { s with
        slots := (freeSlots is s).slots, freeCells := (freeSlots is s).freeCells, routes := (freeSlots is s).routes
        events := (freeSlots is s).events } := by
  simp only [freeSlots]

/-- A freed slot has its FREE values, and no other slot changes (R58). -/
@[simp] theorem freeSlots_slot (i : SlotId) : (freeSlots is s).slot i = if i ∈ is then Slot.freed else s.slot i := by
  simp [freeSlots, State.slot]

/-- An entry is released by as many slots as named it (R17, R59). -/
@[simp] theorem freeSlots_route (r : RouteId) : (freeSlots is s).route r = (s.route r).release (namedBy is s r) := by
  simp [freeSlots, State.route]

/-- Freeing leaves the configuration of every entry. -/
@[simp] theorem freeSlots_route_config (r : RouteId) : ((freeSlots is s).route r).config = (s.route r).config := by
  simp [RouteEntry.release]

/-- Freeing no slot changes nothing in the Event Unit. -/
theorem drainedBy_nil : drainedBy [] s = [] := by
  simp [drainedBy, namedBy, RouteEntry.drains]

/-! ### decideOutcome, by its two cases -/

/-- Deciding an outcome that frees the slot at once (R53). -/
theorem decideOutcome_of_freed {i : SlotId} {o : TxOutcome} (h : freedAtOnce (s.slot i) o = true) :
    decideOutcome i o s = freeSlots [i] (countOutcome i o s) := if_pos h

/-- Deciding an outcome that leaves the slot DONE (R53). -/
theorem decideOutcome_of_done {i : SlotId} {o : TxOutcome} (h : freedAtOnce (s.slot i) o = false) :
    decideOutcome i o s =
      { s with
        counters := (countOutcome i o s).counters
        slots := s.slots.set i { s.slot i with outcome := some o, state := .done }
        completion := s.completion ++ [i] } := by
  simp [decideOutcome, h, countOutcome, State.setSlot]

end Sys2Proof.Machine
end

