-- ==== Sys2Proof/Laws/Reception.lean ====
section
/-!
SUPPORT. What Admission's taking of the waiting frames does to the Receiver, and what the receiving of a frame comes to, byte by byte.
-/
namespace Sys2Proof.Machine

open Sys2Proof.Safety

variable {s : State}

/-! ### Operations that leave the Receiver -/

@[simp] theorem addRecord_receiver (r : ShortRecord) : (addRecord r s).receiver = s.receiver := by
  unfold addRecord
  split
  · rfl
  · simp

@[simp] theorem judgeFlow_receiver : (judgeFlow s).receiver = s.receiver := rfl

@[simp] theorem decideOutcome_receiver (i : SlotId) (o : TxOutcome) : (decideOutcome i o s).receiver = s.receiver := by
  cases h : freedAtOnce (s.slot i) o
  · rw [decideOutcome_of_done _ h]
  · rw [decideOutcome_of_freed _ h, freeSlots_receiver]; rfl

@[simp] theorem admitRequest_receiver (f : InFrame) (d : Demand) : (admitRequest f d s).receiver = s.receiver := rfl

@[simp] theorem judgeRequest_receiver (f : InFrame) : (judgeRequest f s).receiver = s.receiver := by
  unfold judgeRequest; split
  · simp
  · split <;> simp

@[simp] theorem withdrawSlot_receiver (i : SlotId) : (withdrawSlot i s).receiver = s.receiver := by
  simp [withdrawSlot]

@[simp] theorem judgeCancel_receiver (f : InFrame) : (judgeCancel f s).receiver = s.receiver := by
  unfold judgeCancel; split
  · simp
  · split
    · simp
    · split <;> simp

@[simp] theorem judgeWaiting_receiver (w : WaitingFrame) : (judgeWaiting w s).receiver = s.receiver := by
  unfold judgeWaiting; split
  · rfl
  · split <;> simp

/-! ### The order of taking -/

/-- Admission's taking of a frame removes the head of the list and leaves the rest of the Receiver (R23). -/
@[simp] theorem admitNext_receiver :
    (admitNext s).receiver = { s.receiver with admission := s.receiver.admission.tail } := by
  unfold admitNext
  split
  · next h => cases hr : s.receiver; simp_all
  · next h => simp [h]

/-- With no frame waiting there is none to take. -/
theorem admitAll_nil (h : s.receiver.admission = []) : admitAll s = s := by simp [admitAll, h]

/-- With a frame waiting, its taking comes first and the rest follow. -/
theorem admitAll_cons {w : WaitingFrame} {rest : List WaitingFrame} (h : s.receiver.admission = w :: rest) :
    admitAll s = admitAll (admitNext s) := by simp [admitAll, h]

/-- Once Admission has taken every frame none waits, and the rest of the Receiver is as it was (R23). -/
@[simp] theorem admitAll_receiver : (admitAll s).receiver = { s.receiver with admission := [] } := by
  cases h : s.receiver.admission with
  | nil => rw [admitAll_nil h]; cases hr : s.receiver; simp_all
  | cons w rest =>
    induction rest generalizing s w with
    | nil =>
      rw [admitAll_cons h, admitAll_nil (by simp [h])]; simp [h]
    | cons v rest ih =>
      rw [admitAll_cons h, ih (w := v) (by simp [h])]; simp

/-- What every taking of a frame keeps, the taking of all of them keeps. -/
theorem admitAll_induction {P : State → Prop} (hP : ∀ t, P t → P (admitNext t)) (h : P s) : P (admitAll s) := by
  unfold admitAll
  generalize s.receiver.admission = l
  induction l generalizing s with
  | nil => exact h
  | cons _ l ih => exact ih (hP s h)

/-- REQUEST and CANCEL are Admission's taking of the frame at the head of the list, each of its own kind (R23). -/
theorem exec_admitNext {w : WaitingFrame} {rest : List WaitingFrame} (h : s.receiver.admission = w :: rest) :
    exec (if w.isCancel then .cancel else .request) s = .next (admitNext s) := by
  cases hw : w.isCancel <;>
    simp [exec, execRequest, execCancel, takeWaiting, admitNext, judgeWaiting, h, hw]

/-! ### A frame taken whole -/

/-- FRAME_TAKEN_WHOLE with a frame begun: Admission's taking of what waits, then the judgement of the bytes (R23, R110, R111). -/
theorem exec_frameTakenWhole (bytes : List Byte) {r : Reception} (h : s.receiver.reception = some r) :
    exec (.frameTakenWhole bytes) s = .next (judgeReception (bytes.foldl Reception.byte r) (endReception (admitAll s))) := by
  simp only [exec, execFrameTakenWhole, h]

/-- The judgement of a frame whose bytes all arrived, in the terms of R111 to R114: the CRC of the bytes, the list of R112, the size and
the kind. -/
theorem judgeReception_bytes (bytes : List Byte) :
    judgeReception (bytes.foldl Reception.byte .start) s =
      if crcFails bytes = true then setCondition .receiveError (bumpDevice .crcErrors 1 s)
      else match (if malformed bytes then none else (labelCount bytes).map (readFrame bytes)) with
        | none => setCondition .receiveError (bumpDevice .malformed 1 s)
        | some f =>
          if bytes.length > frameLimit s.agent.maxFrame f.labels.length then
            setCondition .receiveError (bumpDevice .oversize 1 s)
          else if f.kind < 1 ∨ 4 < f.kind then bumpDevice .unknownKind 1 s
          else dispatch f (bumpDevice .framesReceived 1 s) := by
  rw [← parseFrame_eq]
  unfold judgeReception
  rw [crcOk_bytes bytes, reception_bytes]
  cases crcFails bytes
  · simp
    try rfl
  · simp

end Sys2Proof.Machine
end

