-- ==== Sys2Proof/Laws/Serve.lean ====
section
/-!
SUPPORT. What the serving of a management request can do, once for every operation: the four ways the checks of R127 can end.
-/
namespace Sys2Proof.Machine

open Sys2Proof.Safety

/-- The state in which a request taken from the queue is judged (R126). -/
def taken (s : State) (rest : List MgmtRequest) : State := { s with agent := { s.agent with queue := rest } }

variable {s : State} {q : MgmtRequest} {rest : List MgmtRequest} {op : Operation} {operands : List Byte}

theorem getD_zero_eq_headD (l : List Byte) : l.getD 0 0 = l.headD 0 := by cases l <;> rfl

theorem canTake_of_taking (h : Taking s q rest) : canTake s = some (q, rest) := by
  simp only [canTake, h.1, h.2]

/-- A request that is not of this operation's code, or none at all, leaves the state alone. -/
theorem serve_of_other (h : Taking s q rest) (hc : opCode q.body ≠ op.code) : serve op s = s := by
  simp only [serve, canTake_of_taking h, if_neg hc]

/-- The serving of a request of this operation's code (R126, R127). -/
theorem serve_of_taking (h : Taking s q rest) (hc : opCode q.body = op.code) :
    serve op s =
      placeResponse (responseTo q s.agent.replyLabel (judgeOperation op q.source q.body (taken s rest)))
        (afterLease op q (judgeOperation op q.source q.body (taken s rest))) := by
  simp only [serve, canTake_of_taking h, if_pos hc, taken]

/-- A body that carries an operation's code has it as its operation code (R127). -/
theorem opCode_of_carries {code : Nat} (hc : Carries q code operands) (hlt : code < 256) : opCode q.body = code := by
  have h1 := hc.1
  have h2 := hc.2.1
  cases hb : q.body with
  | nil => rw [hb] at h1; simp only [List.length_nil] at h1; omega
  | cons b bs =>
    rw [hb] at h2
    simp only [List.headD_cons] at h2
    subst h2
    simp [opCode, byteAt, Nat.mod_eq_of_lt hlt]

/-- A request whose operands have not the length of its operation is BAD_LENGTH and changes nothing else (R127, R173). -/
theorem serve_of_bad_length (h : Taking s q rest) (hc : opCode q.body = op.code) (hl : q.body.length ≠ 4 + op.length) :
    serve op s = withAgent s (answered s q rest .badLength []) := by
  rw [serve_of_taking h hc]
  have hj : judgeOperation op q.source q.body (taken s rest) = failWith .badLength (taken s rest) := by
    simp only [judgeOperation, if_pos hl]
  rw [hj]
  simp only [afterLease, failWith, placeResponse, responseTo, withAgent, answered, taken, getD_zero_eq_headD]
  rfl

/-- A request that requires the lock, from a source that does not hold it, is NOT_HOLDER or LOCKED and changes nothing else (R128). -/
theorem serve_of_no_lock (h : Taking s q rest) (hc : opCode q.body = op.code) (hl : q.body.length = 4 + op.length)
    (hn : op.needsLock (q.body.drop 4) = true) (hh : s.agent.holder ≠ some q.source) :
    serve op s = withAgent s (match s.agent.holder with
      | none => answered s q rest .notHolder []
      | some k => answered s q rest .locked [BitVec.ofNat 8 k.val]) := by
  rw [serve_of_taking h hc]
  have hr : (taken s rest).agent.holder = s.agent.holder := rfl
  cases ho : s.agent.holder with
  | none =>
    have hj : judgeOperation op q.source q.body (taken s rest) = failWith .notHolder (taken s rest) := by
      simp only [judgeOperation, hl, hn, lockCheck, hr, ho, ne_eq, not_true_eq_false, if_false, if_true]
    rw [hj]
    simp only [afterLease, failWith, placeResponse, responseTo, withAgent, answered, taken, getD_zero_eq_headD]
    rfl
  | some k =>
    have hk : k ≠ q.source := fun e => hh (by rw [ho, e])
    have hj : judgeOperation op q.source q.body (taken s rest) =
        { result := .locked, fields := [BitVec.ofNat 8 k.val], state := taken s rest } := by
      simp only [judgeOperation, hl, hn, lockCheck, hr, ho, hk, ne_eq, not_true_eq_false, if_false, if_true]
    rw [hj]
    simp only [afterLease, placeResponse, responseTo, withAgent, answered, taken, getD_zero_eq_headD]
    rfl

/-- The agent of a state with the response of a request in its buffer. -/
def responding (a : Agent) (s : State) (q : MgmtRequest) (result : MgmtResult) (fields : List Byte) : Agent :=
  { a with
    buffer := some
      { op := q.body.headD 0, result := result, fields := fields, stack := s.agent.replyLabel :: q.labels, source := q.source
        sequence := q.sequence } }

/-- A request that requires no lock is executed, and its answer placed (R126, R127). -/
theorem serve_of_free (h : Taking s q rest) (hc : Carries q op.code operands) (hlt : op.code < 256)
    (hl : operands.length = op.length) (hn : op.needsLock operands = false) :
    serve op s =
      withAgent (op.run q.source operands (taken s rest)).state
        (responding (op.run q.source operands (taken s rest)).state.agent s q (op.run q.source operands (taken s rest)).result
          (op.run q.source operands (taken s rest)).fields) := by
  rw [serve_of_taking h (opCode_of_carries hc hlt)]
  have hlen : q.body.length = 4 + op.length := hl ▸ hc.1
  have hj : judgeOperation op q.source q.body (taken s rest) = op.run q.source operands (taken s rest) := by
    simp only [judgeOperation, hlen, hc.2.2, hn, ne_eq, not_true_eq_false, if_false, Bool.false_eq_true]
  rw [hj]
  simp only [afterLease, hc.2.2, hn, Bool.false_eq_true, and_false, if_false, placeResponse, responseTo, withAgent, responding,
    getD_zero_eq_headD]

/-- A request of the lock's holder that requires the lock is executed; a DONE restarts the lease (R127, R128, R131). -/
theorem serve_of_holder (h : Taking s q rest) (hc : Carries q op.code operands) (hlt : op.code < 256)
    (hl : operands.length = op.length) (hn : op.needsLock operands = true) (hh : s.agent.holder = some q.source) :
    serve op s =
      let a := op.run q.source operands (taken s rest)
      let u := if a.result = .done then restartLease q.source a.state else a.state
      withAgent u (responding u.agent s q a.result a.fields) := by
  rw [serve_of_taking h (opCode_of_carries hc hlt)]
  have hlen : q.body.length = 4 + op.length := hl ▸ hc.1
  have hr : (taken s rest).agent.holder = some q.source := hh
  have hj : judgeOperation op q.source q.body (taken s rest) = op.run q.source operands (taken s rest) := by
    simp only [judgeOperation, hlen, hc.2.2, hn, lockCheck, hr, ne_eq, not_true_eq_false, if_false, if_true]
  rw [hj]
  simp only [afterLease, hc.2.2, hn, and_true, placeResponse, responseTo, withAgent, responding,
    getD_zero_eq_headD]

/-- An operation that is refused leaves the bridge as it was, its answer apart (R127). -/
theorem withAgent_of_refused (r : MgmtResult) :
    withAgent (failWith r (taken s rest)).state (responding (failWith r (taken s rest)).state.agent s q r []) =
      withAgent s (answered s q rest r []) := rfl

/-- An operation that only reads leaves the bridge as it was, its answer apart. -/
theorem withAgent_of_read (fields : List Byte) :
    withAgent (taken s rest) (responding (taken s rest).agent s q .done fields) = withAgent s (answered s q rest .done fields) := rfl

/-- A DONE of the holder that leaves the lock alone ends with the lease renewed (R131). -/
theorem withAgent_of_renewed {u : State} {lease : Nat} (fields : List Byte) (hu : u.agent = (taken s rest).agent) (hh : Holds s q lease) :
    withAgent (restartLease q.source u) (responding (restartLease q.source u).agent s q .done fields) =
      { u with agent := renewed s q rest lease fields } := by
  have h1 : u.agent.holder = some q.source := by rw [hu]; exact hh.1
  have h2 : u.agent.lease = some lease := by rw [hu]; exact hh.2
  have hr : restartLease q.source u = { u with agent := { u.agent with remaining := lease * 1000 } } := by
    rw [restartLease, if_pos h1, h2]
    rfl
  rw [hr]
  simp only [withAgent, responding, renewed, answered, hu]
  rfl

/-- An operation of the holder that is DONE and leaves the agent as it was taken ends with the lease renewed (R131). -/
theorem serve_of_holder_done {lease : Nat} {f : List Byte} {u : State} (h : Taking s q rest) (hc : Carries q op.code operands)
    (hlt : op.code < 256) (hl : operands.length = op.length) (hn : op.needsLock operands = true) (hh : Holds s q lease)
    (hr : op.run q.source operands (taken s rest) = doneWith f u) (hu : u.agent = (taken s rest).agent) :
    serve op s = { u with agent := renewed s q rest lease f } := by
  rw [serve_of_holder h hc hlt hl hn hh.1, hr]
  exact withAgent_of_renewed f hu hh

/-- An operation of the holder that is refused changes nothing but the agent (R127). -/
theorem serve_of_holder_refused {r : MgmtResult} (h : Taking s q rest) (hc : Carries q op.code operands)
    (hlt : op.code < 256) (hl : operands.length = op.length) (hn : op.needsLock operands = true) (hh : s.agent.holder = some q.source)
    (hr : op.run q.source operands (taken s rest) = failWith r (taken s rest)) (hd : r ≠ .done) :
    serve op s = withAgent s (answered s q rest r []) := by
  rw [serve_of_holder h hc hlt hl hn hh, hr]
  have : (failWith r (taken s rest)).result ≠ .done := hd
  simp only [this, if_false]
  exact withAgent_of_refused r

/-- An operation that requires no lock and only reads is DONE and changes nothing but the agent (R127). -/
theorem serve_of_read {f : List Byte} (h : Taking s q rest) (hc : Carries q op.code operands) (hlt : op.code < 256)
    (hl : operands.length = op.length) (hn : op.needsLock operands = false)
    (hr : op.run q.source operands (taken s rest) = doneWith f (taken s rest)) :
    serve op s = withAgent s (answered s q rest .done f) := by
  rw [serve_of_free h hc hlt hl hn, hr]
  rfl

/-- An operation that requires no lock and is refused changes nothing but the agent (R127). -/
theorem serve_of_refused {r : MgmtResult} (h : Taking s q rest) (hc : Carries q op.code operands) (hlt : op.code < 256)
    (hl : operands.length = op.length) (hn : op.needsLock operands = false)
    (hr : op.run q.source operands (taken s rest) = failWith r (taken s rest)) :
    serve op s = withAgent s (answered s q rest r []) := by
  rw [serve_of_free h hc hlt hl hn, hr]
  rfl

end Sys2Proof.Machine
end

