-- ==== Sys2Proof/WellFormed.lean ====
section
/-!
DEFINITION. Which commands are well formed. A lane operand is in range by its type. What is left to check is that the record
of the data input a lane command carries is no longer than the longest attempt the part can make (R11, R75).
-/
namespace Sys2Proof

/-- The longest attempt in periods of the lane reference (R75): half a bit period and 512 words of 32 bits, at the largest
divisor, 65534. -/
def maxAttemptPeriods : Nat := 65534 / 2 + 512 * 32 * 65534

/-- The record of the data input is no longer than the longest attempt. -/
def recordFits (din : List Bool) : Bool := din.length ≤ maxAttemptPeriods

/-- A well-formed command. -/
def WellFormed : Instr → Bool
  | .powerOn => true
  | .resetLineAsserted => true
  | .syncFound => true
  | .syncLost => true
  | .linkUp => true
  | .linkDown => true
  | .frameAbandoned _ => true
  | .frameTakenWhole _ => true
  | .request => true
  | .cancel => true
  | .laneStartAttempt _ _ => true
  | .readyAssert _ => true
  | .readyTimerExpiry _ => true
  | .endOfLastWord _ din => recordFits din
  | .gapTimerExpiry _ => true
  | .claimAssert _ din => recordFits din
  | .claimRelease _ => true
  | .refreshTimerExpiry => true
  | .inboundHoldExpiry => true
  | .leaseExpiry => true
  | .repeatTimerExpiry => true
  | .outputGrant => true
  | .frameEnd => true
  | .lock => true
  | .unlock => true
  | .readDevice => true
  | .setDevice => true
  | .readRoute => true
  | .findRoute => true
  | .writeRoute => true
  | .openRoute => true
  | .drainRoute => true
  | .deleteRoute => true
  | .readLane => true
  | .setLane => true
  | .resetLane => true
  | .readTransactions => true
  | .readCounters => true
  | .setFlow => true
  | .readFlow => true
  | .setEvents => true
  | .ackEvents => true
  | .deviceReset => true
  | .mgmtBadOperation => true
  | .startDelimiter => true

end Sys2Proof
end

