-- ==== Sys2Proof/Tests/Slice0.lean ====
section
/-!
SUPPORT. Tests of the model on fixed values taken from the spec, the smoke test of WellFormed, and for every statement with hypotheses a
witness: a concrete state and operands that meet them, with one conjunct for each clause, at a boundary value where it has one.
-/
namespace Sys2Proof.Tests

set_option Elab.async false

open Sys2Proof Sys2Proof.Machine Sys2Proof.Safety

/-! ### WellFormed -/

theorem test_wf_record_of_last_word_too_long :
    WellFormed (.endOfLastWord 0 (List.replicate (maxAttemptPeriods + 1) false)) = false := by
  simp [WellFormed, recordFits]

theorem test_wf_record_of_claim_too_long :
    WellFormed (.claimAssert 0 (List.replicate (maxAttemptPeriods + 1) false)) = false := by
  simp [WellFormed, recordFits]

theorem test_wf_record_at_the_limit :
    WellFormed (.endOfLastWord 0 (List.replicate maxAttemptPeriods false)) = true := by
  simp [WellFormed, recordFits]

theorem test_no_row_has_bits : decodeTableWord 8 1 = none := rfl

/-! ### Small states -/

/-- A READ route of 8-bit words on lane 0, as example 3.8's entry 2 has it, for every source. -/
def readRoute : RouteConfig :=
  { RouteConfig.powerOn with
    label := 100, lane := 0, selects := 1, shape := .read, wordSize := 8, clockDivisor := 2, maxRead := 32, replyLabel := 110
    permitted := BitVec.allOnes 64, counterSet := some 0 }

/-- A slot of that route that reads one word into one cell. -/
def readSlot (st : SlotState) (sequence : BitVec 16) (cell : Nat) : Slot :=
  { Slot.freed with
    state := st, source := 6, sequence := sequence, route := 3, lane := 0, shape := .read, wordBytes := 1, readCount := 1
    cells := [cell], responseStack := [110], responseWanted := true }

/-- The link is UP and source 1 holds the lock. -/
def managed : State :=
  { State.reset with
    receiver := { Receiver.powerOn with link := .up, inSync := true }
    agent := { Agent.powerOn with holder := some 1, lease := some 1000, remaining := 1000000 } }

/-- A request of source 1 waits at the agent. -/
def req (code : Byte) (operands : List Byte) : MgmtRequest :=
  { source := 1, sequence := 7, labels := [5], body := [code, 0, 0, 0] ++ operands }

/-- The state with one management request waiting. -/
def asked (q : MgmtRequest) (s : State) : State := { s with agent := { s.agent with queue := [q] } }

/-- Lane 0 as it stands with the active slot 0 in one of the two states of an attempt. -/
def attempting (st : LaneState) : LaneEngine :=
  { LaneEngine.powerOn with
    enabled := true, state := st, current := some 0
    readyTimer := if st = .readyWait then some 1 else none
    selectsOut := if st = .shifting then 1 else 0 }

/-- Slot 0 ACTIVE and slot 1 QUEUED on lane 0, slot 2 DONE, all of route 3, each with one cell. -/
def busy (st : LaneState) : State :=
  { managed with
    routes := managed.routes.set 3 { config := readRoute, state := .opened, inUse := 3 }
    slots := ((managed.slots.set 0 { readSlot .active 40 0 with attempts := 1 }).set 1 (readSlot .queued 41 1)).set 2
      { readSlot .done 42 2 with attempts := 1, outcome := some .ok }
    queues := managed.queues.set 0 [1]
    completion := [2]
    lanes := managed.lanes.set 0 (attempting st)
    freeCells := 1021 }

/-- A frame that waits for Admission. -/
def waiting (isCancel : Bool) (sequence : BitVec 16) (label : Nat) (body : List Byte) : WaitingFrame :=
  { frame := { kind := if isCancel then 2 else 1, source := 6, sequence := sequence, labels := [label, 61], body := body }
    isCancel := isCancel, lost := false }

/-- The state with one frame waiting for Admission. -/
def offered (w : WaitingFrame) (s : State) : State := { s with receiver := { s.receiver with admission := [w] } }

/-- The state after a command. -/
def after (c : Instr) (s : State) : State :=
  match exec c s with
  | .next t => t
  | _ => s

/-! ### Values of the spec -/

/-- The CRC with generator 0x04C11DB7, all ones, no reflection, complemented (R170): the check value of that CRC, which stands outside
the spec, for the nine digits 1 to 9. -/
theorem test_crc_check_value : crc32 [0x31, 0x32, 0x33, 0x34, 0x35, 0x36, 0x37, 0x38, 0x39] = 0xfc891918#32 := by decide +kernel

/-- Section 10.6: the request frame is 21 bytes, its header and its two label entries as told there. -/
theorem test_request_frame_of_10_6 :
    (buildFrame 1 6 2001 [520, 61] [0, 3, 0, 0, 0x11, 0x22, 0x33]).length = 21 ∧
    (buildFrame 1 6 2001 [520, 61] [0, 3, 0, 0, 0x11, 0x22, 0x33]).take 10 = [17, 24, 7, 209, 0, 7, 32, 128, 3, 216] := by
  decide +kernel

/-- R154: WORDS_READ at 1 099 511 627 770 incremented by 32 becomes 26. -/
theorem test_counter_wraps : (1099511627770#40 + BitVec.ofNat 40 32) = 26#40 := by decide

/-- R75: a READ of 64 words of 16 bits at divisor 20 lasts 204.9 µs, and a COMMAND_READ of 1 and 4 words of 8 bits at divisor 100 40.5. -/
theorem test_attempt_lasts :
    attemptPeriods { readRoute with wordSize := 16, clockDivisor := 20 } { readSlot .active 0 0 with readCount := 64 } = 20490 ∧
    attemptPeriods { readRoute with wordSize := 8, clockDivisor := 100, shape := .commandRead }
      { readSlot .active 0 0 with shape := .commandRead, writeCount := 1, readCount := 4 } = 4050 := by
  decide +kernel

/-- R34: 256 words of 4 bytes each way need 64 cells. -/
theorem test_cells_needed : cellsNeeded 4 256 256 = 64 ∧ cellsNeeded 1 0 20 = 1 ∧ cellsNeeded 2 40 0 = 3 := by decide

/-- Section 5.5, event 29: at 128 free cells the flag is raised and a hold request is made for source 0 under label 50. -/
theorem test_hold_at_128_cells :
    let s : State := { managed with
      freeCells := 128
      flow := { managed.flow with settings := { managed.flow.settings with destination := some { source := 0, stack := [50] } } } }
    (judgeFlow s).flow.state = .holding ∧ (judgeFlow s).flow.refreshTimer = some 500 ∧
    (judgeFlow s).flow.pendingHold =
      some { holdTime := 1000, lanes := 0, poolFlag := true, destination := { source := 0, stack := [50] } } := by
  decide +kernel

/-- R72: the two bits of a word, most significant first, captured at the first edge of each bit period of divisor 2. -/
theorem test_capture_msb_first :
    capturedWord { readRoute with wordSize := 4 } (readSlot .active 0 0) [false, false, true, false, false, false, true, false, true, false] 0
      = 0b1011 := by
  decide +kernel

/-! ### Every law holds in a state at work -/

theorem test_memLaw_at_work : MemLaw (busy .shifting) := by decide +kernel
theorem test_labelLaw_at_work : LabelLaw (busy .shifting) := by decide +kernel
theorem test_laneLaw_at_work : LaneLaw (busy .shifting) := by decide +kernel
theorem test_agentLaw_at_work : AgentLaw (busy .shifting) := by decide +kernel
theorem test_eventLaw_at_work : EventLaw (busy .shifting) := by decide +kernel
theorem test_outputLaw_at_work : OutputLaw (busy .shifting) := by decide +kernel
theorem test_flowLaw_at_work : FlowLaw (busy .shifting) := by decide +kernel
theorem test_slotLaw_at_work : SlotLaw (busy .shifting) := by decide +kernel
theorem test_poolLaw_at_work : PoolLaw (busy .shifting) := by decide +kernel
theorem test_inUseLaw_at_work : InUseLaw (busy .shifting) := by decide +kernel
theorem test_limitLaw_at_work : LimitLaw (busy .shifting) := by decide +kernel

/-! ### Witnesses: the machine, power-on and the link -/

theorem witness_StepRunsFrontCommand : { State.reset with pending := [.lock] }.pending = [.lock] := rfl

theorem witness_IdleStep :
    (offered (waiting false 1 100 []) managed).pending = [] ∧ nextInternal (offered (waiting false 1 100 []) managed) = some .request ∧
    (∀ n : Fin 3, nextInternal { State.reset with
      lanes := State.reset.lanes.set 0 { attempting .readyWait with readyTimer := some n.val } } = none) ∧
    nextInternal { State.reset with
      lanes := State.reset.lanes.set 0 { attempting .idle with state := .gap, current := none, gapTimer := some 2 } } = none := by
  decide +kernel

theorem witness_ResetPins :
    managed.resetLine = false ∧ managed.trans.output = none ∧
    { Transmitter.powerOn with output := some { requester := .mgmt, bytes := [48] } }.output =
      some { requester := .mgmt, bytes := [48] } := by
  decide +kernel

theorem witness_SynchronisationEvents :
    State.reset.receiver.inSync = false ∧ State.reset.resetLine = false ∧ State.reset.receiver.link = .down ∧
    managed.receiver.inSync = true ∧ managed.receiver.link = .up ∧
    { managed.receiver with inSync := false }.inSync = false := by
  decide +kernel

/-- The link DOWN with synchronisation measured, and the Flow Controller in HOLDING with a destination or without. -/
def rising (dest : Option Destination) : State :=
  { State.reset with
    receiver := { State.reset.receiver with inSync := true, syncTimer := some 1000 }
    flow := { State.reset.flow with
      state := .holding, poolFlag := true, settings := { State.reset.flow.settings with destination := dest } } }

theorem witness_LinkUp :
    let s := rising (some { source := 0, stack := [50] })
    s.receiver.link = .down ∧ s.receiver.inSync = true ∧ s.receiver.syncTimer.isSome = true ∧
    s.flow.settings.destination = some { source := 0, stack := [50] } ∧ s.flow.state = .holding ∧ s.flow.settings.mode ≠ .off ∧
    (rising none).flow.settings.destination = none ∧ (rising none).receiver.syncTimer.isSome = true := by
  refine ⟨?_, ?_, ?_, ?_, ?_, ?_, ?_, ?_⟩ <;> decide +kernel

/-- A state at work in which synchronisation has been lost for 100 µs. -/
def falling : State :=
  { busy .shifting with receiver := { (busy .shifting).receiver with inSync := false, syncTimer := some 100 } }

theorem witness_LinkDownTable :
    falling.receiver.link = .up ∧ falling.receiver.inSync = false ∧ falling.receiver.syncTimer.isSome = true ∧
    (falling.slot 0).state = .active ∧ (falling.slot 1).state = .queued ∧ (falling.slot 2).state = .done ∧
    (falling.slot 63).state = .free := by
  decide +kernel

theorem witness_LinkDownBlocks :
    falling.receiver.link = .up ∧ falling.receiver.inSync = false ∧ falling.receiver.syncTimer.isSome = true ∧
    (setCondition .linkRestored falling).events.cond .linkRestored ≠ .clear ∧ falling.events.cond .drainDone = .clear ∧
    falling.events.cond .poolLow = .clear ∧ falling.events.cond .mgmtLoss = .clear := by
  decide +kernel

/-- R121, R123: a frame cut off ends with an abort delimiter, and with none while the reset line is asserted. -/
theorem test_cut_off :
    let s (line : Bool) : State := { falling with
      resetLine := line, trans := { falling.trans with output := some { requester := .mgmt, bytes := [] }, lastMark := .start } }
    (after .linkDown (s false)).trans.lastMark = .abort ∧ (after .linkDown (s true)).trans.lastMark = .start := by
  decide +kernel

/-! ### Witnesses: receiving -/

/-- A frame is in reception, no byte of it yet. -/
def receiving : State := { managed with receiver := { managed.receiver with reception := some .start } }

/-- Frames that are good, malformed by a last label of 0, a byte too long for a MAX_FRAME of 64, and of an unknown kind. -/
def goodFrame : List Byte := buildFrame 1 6 2001 [520, 61] [0, 0, 0, 0]
def oddFrame : List Byte := buildFrame 1 6 2001 [0] [0, 0, 0, 0]
def largeFrame : List Byte := buildFrame 1 6 2001 [520] (List.replicate 53 0)
def strangeFrame : List Byte := buildFrame 5 6 2001 [520] []

theorem witness_FrameBegun :
    managed.receiver.link = .up ∧ managed.receiver.inSync = true ∧ managed.resetLine = false ∧ State.reset.receiver.link = .down ∧
    falling.receiver.link = .up ∧ falling.receiver.inSync = false ∧ receiving.receiver.reception = some .start ∧ AbandonCause.abortDelimiter ≠ .secondStart := by
  decide +kernel

theorem witness_RequestFrameArrives :
    InboundForm receiving 1 [1] [] ∧ InboundForm receiving 1 [4094, 0, 4094] (List.replicate 1028 0) ∧ InboundForm receiving 2 [0] [] ∧
    receiving.receiver.reception = some .start ∧ receiving.receiver.admission = [] := by
  decide +kernel

/-- R23: a CANCEL still waits when the next frame is taken whole; Admission takes it first, so that the list holds the new one alone. -/
theorem witness_RequestFrameArrives_in_turn :
    let s := offered (waiting true 43 0 []) receiving
    s.receiver.reception.isSome = true ∧ s.receiver.admission = [waiting true 43 0 []] ∧
    (after (.frameTakenWhole goodFrame) s).receiver.admission.map (·.frame.sequence) = [2001] ∧
    (after (.frameTakenWhole goodFrame) s).trans.shortQueue.length = 1 := by
  decide +kernel

theorem witness_ServedFrameArrives :
    receiving.receiver.reception = some .start ∧ receiving.receiver.admission = [] ∧ InboundForm receiving 3 [0, 5] [3, 0, 0, 0] ∧
    InboundForm receiving 4 [0] [0, 1, 0, 0] ∧ InboundForm receiving 4 [0] [] := by
  decide +kernel

theorem witness_ReceiveChecks_crc :
    receiving.receiver.reception = some .start ∧ receiving.receiver.admission = [] ∧ crcFails [] = true ∧ crcFails (goodFrame.take 17) = true := by
  decide +kernel

theorem witness_ReceiveChecks_malformed : crcFails oddFrame = false ∧ malformed oddFrame = true ∧ crcFails goodFrame = false ∧
    malformed goodFrame = false := by
  decide +kernel

theorem witness_ReceiveChecks_oversize : crcFails largeFrame = false ∧ malformed largeFrame = false ∧ labelCount largeFrame = some 1 ∧
    largeFrame.length = 65 ∧ { receiving.agent with maxFrame := 64 }.maxFrame = 64 :=
  ⟨crcFails_buildFrame .., by decide +kernel, by decide +kernel, by decide +kernel, by decide +kernel⟩

theorem witness_ReceiveChecks_kind : crcFails strangeFrame = false ∧ malformed strangeFrame = false ∧ strangeFrame.length = 12 ∧
    labelCount strangeFrame = some 1 ∧ byteAt strangeFrame 0 / 16 = 5 := by
  decide +kernel

/-! ### Witnesses: shared operations -/

/-- The Flow Controller with a mode, a state, a pool flag and a destination. -/
def flowing (mode : FlowMode) (st : FlowState) (flag : Bool) (free : Nat) : State :=
  { managed with
    freeCells := free
    flow := { managed.flow with
      state := st, poolFlag := flag
      settings := { managed.flow.settings with mode := mode, destination := some { source := 0, stack := [50] } } } }

theorem witness_FlowJudgement :
    (judgeFlow (flowing .holdRelease .clear false 128)).flow.poolFlag = true ∧
    (judgeFlow (flowing .holdRelease .clear false 129)).flow.poolFlag = false ∧
    (judgeFlow (flowing .holdRelease .holding true 255)).flow.poolFlag = true ∧
    (judgeFlow (flowing .holdRelease .holding true 256)).flow.poolFlag = false ∧
    (judgeFlow (flowing .holdOnly .holding true 256)).flow.state = .clear ∧
    (flowing .off .clear false 128).flow.settings.mode = .off := by
  decide +kernel

theorem witness_RecordQueue :
    let r : ShortRecord := { kind := .cancelAck .unknown, source := 6, sequence := 0, stack := [1] }
    (List.replicate 15 r).length < 16 ∧ 16 ≤ (List.replicate 16 r).length := by
  decide +kernel

/-- Route 3 DRAINING with one slot left, slot 2. -/
def draining : State :=
  { busy .shifting with routes := (busy .shifting).routes.set 3 { config := readRoute, state := .draining, inUse := 1 } }

theorem witness_SlotsFreed :
    completesDrain [2] draining 3 = true ∧ (∀ r, completesDrain [] draining r = false) ∧ (draining.slot 2).cells.length = 1 := by
  decide +kernel

/-- The completed drain calls for an EVENT frame, and with DRAIN_DONE masked it does not. -/
theorem witness_SlotsFreed_called :
    let s (mask : BitVec 9) : State := { draining with
      events := { draining.events with destination := some { source := 2, stack := [60] }, mask := mask } }
    (s 0).events.state = .quiet ∧ (s 0).receiver.link = .up ∧ (freeSlots [2] (s 0)).events.conditions[0] = .unreported ∧
    (freeSlots [2] (s 0)).events.state = .requested ∧ (freeSlots [2] (s 1)).events.state = .quiet := by
  decide +kernel

/-! ### Witnesses: admission -/

theorem witness_RequestRefused :
    let f (w : WaitingFrame) : Option RefusalReason := firstRefusal w.frame (offered w (busy .shifting))
    f (waiting false 43 101 [0, 0, 0, 1]) = some .noRoute ∧
    f (waiting false 43 100 [0, 0, 1]) = some .badLength ∧
    f (waiting false 43 100 [0, 0, 0, 0]) = some .badShape ∧
    f (waiting false 43 100 [0, 0, 0, 33]) = some .tooLong ∧
    f (waiting false 41 100 [0, 0, 0, 32]) = some .duplicate ∧
    (offered (waiting false 43 101 []) managed).receiver.admission = [waiting false 43 101 []] ∧
    (waiting false 43 101 []).isCancel = false ∧ (waiting false 43 101 []).lost = false := by
  refine ⟨?_, ?_, ?_, ?_, ?_, ?_, ?_, ?_⟩ <;> decide +kernel

theorem witness_RequestRefused_by_state :
    let f (st : RouteState) (g : RouteConfig) (s : State) : Option RefusalReason :=
      firstRefusal (waiting false 43 100 [0, 0, 0, 1]).frame { s with routes := s.routes.set 3 { config := g, state := st, inUse := 3 } }
    f .closed readRoute (busy .shifting) = some .routeClosed ∧
    f .draining readRoute (busy .shifting) = some .routeDraining ∧
    f .opened { readRoute with permitted := 0 } (busy .shifting) = some .sourceDenied ∧
    f .opened readRoute { busy .shifting with slots := Vector.replicate 64 (readSlot .done 0 0) } = some .noSlot ∧
    f .opened { readRoute with lane := 1 } (busy .shifting) = some .laneOff ∧
    f .opened readRoute { busy .shifting with queues := managed.queues.set 0 (List.replicate 15 1) } = some .laneFull ∧
    f .opened readRoute { busy .shifting with freeCells := 0 } = some .noCells := by
  refine ⟨?_, ?_, ?_, ?_, ?_, ?_, ?_⟩ <;> decide +kernel

theorem witness_RequestAdmitted :
    let w := waiting false 43 100 [0, 0, 0, 32]
    let s := offered w (busy .shifting)
    (MemLaw s ∧ PoolLaw s) ∧ (s.receiver.admission = [w] ∧ w.isCancel = false ∧ w.lost = false) ∧
    firstRefusal w.frame s = none ∧ lookup (w.frame.labels.headD 0) s = some 3 ∧
    (s.slot 3).state = .free ∧ (∀ j, j < (3 : SlotId) → (s.slot j).state ≠ .free) := by
  refine ⟨?_, ?_, ?_, ?_, ?_, ?_⟩ <;> decide +kernel

theorem witness_CancelWithdraws :
    let w := waiting true 41 0 []
    let s := offered w (busy .shifting)
    s.receiver.admission = [w] ∧ w.isCancel = true ∧ w.lost = false ∧ w.frame.body = [] ∧
    findPair w.frame.source w.frame.sequence s = some 1 ∧ (s.slot 1).state = .queued ∧ (s.slot 1).orphan = false := by
  refine ⟨?_, ?_, ?_, ?_, ?_, ?_, ?_⟩ <;> decide +kernel

theorem witness_CancelAnswered :
    (offered { waiting true 1 0 [] with lost := true } managed).receiver.admission = [{ waiting true 1 0 [] with lost := true }] ∧
    (waiting true 1 0 [9]).frame.body ≠ [] ∧
    (∀ i, ((busy .shifting).slot i).state = .free ∨ ((busy .shifting).slot i).source ≠ 6 ∨ ((busy .shifting).slot i).sequence ≠ 1) ∧
    findPair 6 40 (busy .shifting) = some 0 ∧ ((busy .shifting).slot 0).state = .active ∧
    findPair 6 42 (busy .shifting) = some 2 ∧ ((busy .shifting).slot 2).state = .done := by
  refine ⟨?_, ?_, ?_, ?_, ?_, ?_, ?_⟩ <;> decide +kernel

/-! ### Witnesses: the lanes -/

/-- Lane 0 in a state with no attempt in progress. -/
def resting (st : LaneState) : State :=
  { busy .shifting with
    lanes := managed.lanes.set 0
      { attempting .idle with state := st, current := none, gapTimer := if st = .gap then some 1 else none } }

theorem witness_AttemptBegins :
    ((resting .idle).lane 0).state = .idle ∧ (resting .idle).queue 0 = [1] ∧ ((resting .idle).lane 0).claimIn = false ∧
    ((busy .readyWait).lane 0).state = .readyWait ∧ ((busy .readyWait).lane 0).current = some 0 ∧
    ((resting .idle).lane 0).state ≠ .readyWait := by
  decide +kernel

theorem witness_ReadyTimeout :
    ((busy .readyWait).lane 0).state = .readyWait ∧ ((busy .readyWait).lane 0).current = some 0 ∧
    ((busy .readyWait).lane 0).readyTimer.isSome = true := by
  decide +kernel

theorem witness_EndOfLastWord :
    ((busy .shifting).lane 0).state = .shifting ∧ ((busy .shifting).lane 0).current = some 0 ∧
    ((busy .shifting).slot 0).orphan = false ∧ ((busy .shifting).slot 0).responseWanted = true ∧
    ((busy .shifting).slotRoute 0).counterSet = some 0 := by
  decide +kernel

theorem witness_CapturedWords :
    (MemLaw (busy .shifting) ∧ PoolLaw (busy .shifting)) ∧
    ((busy .shifting).lane 0).state = .shifting ∧ ((busy .shifting).lane 0).current = some 0 ∧ capturedWords ((busy .shifting).slot 0) = 1 := by
  refine ⟨?_, ?_, ?_, ?_⟩ <;> decide +kernel

theorem witness_ShiftedBits :
    (busy .shifting).resetLine = false ∧ ((busy .shifting).lane 0).state = .shifting ∧ ((busy .shifting).lane 0).current = some 0 ∧
    ((busy .shifting).slotRoute 0).clockDivisor = 2 ∧ ((busy .shifting).slotRoute 0).wordSize = 8 ∧
    laneBits ((busy .shifting).slotRoute 0) ((busy .shifting).slot 0) = 8 ∧ capturedWords ((busy .shifting).slot 0) = 1 ∧
    laneBits readRoute Slot.freed = 0 ∧
    ((busy .shifting).lane 1).state ≠ .shifting ∧ EngineLaw ((busy .shifting).lane 1) ∧
    ((busy .readyWait).lane 0).state ≠ .shifting ∧ EngineLaw ((busy .readyWait).lane 0) := by
  decide +kernel

theorem witness_LaneReturnsToIdle :
    ((resting .gap).lane 0).state = .gap ∧ ((resting .gap).lane 0).gapTimer.isSome = true := by
  decide +kernel

theorem witness_ClaimAssert :
    (State.reset.lane 0).state = .off ∧ ((resting .yielded).lane 0).state = .yielded ∧
    ((resting .idle).lane 0).claimWatch = true ∧ ((resting .idle).lane 0).state = .idle ∧ ((resting .gap).lane 0).state = .gap := by
  decide +kernel

theorem witness_ContentionAbort :
    ((busy .readyWait).lane 0).claimWatch = true ∧ ((busy .readyWait).lane 0).state = .readyWait ∧
    ((busy .readyWait).lane 0).current = some 0 ∧ ((busy .shifting).lane 0).state = .shifting ∧
    ((busy .shifting).lane 0).current = some 0 := by
  decide +kernel

/-- R79: a claim four periods into the only word leaves the byte of that word as it was; one past its last capture leaves the word. -/
theorem test_claim_leaves_uncaptured :
    let s := { busy .shifting with mem := writeByte 0 0x5a (busy .shifting).mem }
    readByte (after (.claimAssert 0 (List.replicate 4 true)) s).mem 0 = 0x5a ∧
    readByte (after (.claimAssert 0 (List.replicate 18 true)) s).mem 0 = 0xff := by
  decide +kernel

/-! ### Witnesses: timers and the output -/

theorem witness_TimerExpiries :
    let f := flowing .holdRelease .holding true 128
    let s : State := { f with
      flow := { f.flow with refreshTimer := some 1 }
      events := { f.events with state := .outstanding, repeatTimer := some 1 } }
    s.flow.refreshTimer.isSome = true ∧ s.flow.state = .holding ∧ s.receiver.link = .up ∧ s.flow.settings.mode ≠ .off ∧
    s.agent.holder.isSome = true ∧ s.events.repeatTimer.isSome = true ∧ s.events.state = .outstanding := by
  refine ⟨?_, ?_, ?_, ?_, ?_, ?_, ?_⟩ <;> decide +kernel

theorem witness_OutputGrant :
    let s := busy .shifting
    s.receiver.link = .up ∧ s.trans.output = none ∧ s.resetLine = false ∧ s.flow.pendingHold = none ∧ s.agent.buffer = none ∧
    s.events.request = false ∧ s.trans.inboundHold = 0 ∧ s.completion = [2] ∧ s.trans.shortQueue = [] ∧
    managed.completion = [] := by
  refine ⟨?_, ?_, ?_, ?_, ?_, ?_, ?_, ?_, ?_, ?_⟩ <;> decide +kernel

/-- Every requester waits at once: the queue of refusals and acknowledgements too. -/
def contended : State :=
  { flowing .holdRelease .holding true 128 with
    flow := { managed.flow with
      pendingHold := some { holdTime := 1000, lanes := 0, poolFlag := true, destination := { source := 0, stack := [50] } } }
    agent := { managed.agent with
      buffer := some { op := 3, result := .done, fields := [], stack := [1], source := 1, sequence := 7 } }
    events := { managed.events with destination := some { source := 2, stack := [60] }, state := .requested, request := true }
    trans := { managed.trans with shortQueue := [{ kind := .cancelAck .unknown, source := 6, sequence := 0, stack := [1] }] } }

theorem witness_OutputGrant_contended :
    contended.receiver.link = .up ∧ contended.trans.output = none ∧ contended.flow.pendingHold.isSome = true ∧
    contended.agent.buffer.isSome = true ∧ contended.events.request = true ∧
    contended.events.destination = some { source := 2, stack := [60] } ∧ contended.events.state ≠ .outstanding ∧
    contended.events.nextNumber = 0 ∧ contended.trans.shortQueue.length = 1 ∧ contended.trans.lastServed = .completion ∧
    contended.completion = [] := by
  decide +kernel

theorem witness_FrameEnd :
    let s (q : Requester) : State := { busy .shifting with trans := { Transmitter.powerOn with output := some { requester := q, bytes := [] } } }
    ∀ q ∈ [Requester.hold, .mgmt, .event 255, .record, .slot 2],
      (s q).trans.output = some { requester := q, bytes := [] } ∧ (s q).resetLine = false := by
  decide +kernel

theorem witness_ResponseContents :
    PoolLaw (busy .shifting) ∧ ((busy .shifting).slot 2).outcome = some .ok ∧
    ((busy .shifting).slot 2).readCount * ((busy .shifting).slot 2).wordBytes = 1 ∧
    { readSlot .done 42 2 with outcome := some .cancelled }.outcome = some .cancelled ∧ TxOutcome.cancelled ≠ .ok := by
  refine ⟨?_, ?_, ?_, ?_, ?_⟩ <;> decide +kernel

/-- The RESPONSE of a slot that read one word carries result 0, one attempt, read count 1 and the byte its read cell holds (R55). -/
theorem test_response_of_ok :
    let s := { busy .shifting with mem := writeByte 64 0x5a (busy .shifting).mem }
    ((slotResponse s (s.slot 2)).drop 8).take 5 = [0, 1, 0, 1, 0x5a] := by
  decide +kernel

/-! ### Witnesses: management -/

theorem witness_Taking :
    Taking (asked (req 3 []) managed) (req 3 []) [] ∧ Carries (req 3 []) 3 [] ∧ Holds (asked (req 3 []) managed) (req 3 []) 1000 := by
  decide +kernel

theorem witness_RequestMalformed :
    Taking (asked (req 0 []) managed) (req 0 []) [] ∧ byteAt (req 0 []).body 0 = 0 ∧ byteAt (req 21 []).body 0 = 21 ∧
    byteAt { req 3 [] with body := [] }.body 0 = 0 ∧
    (∀ row ∈ operationTable, byteAt (req (BitVec.ofNat 8 row.2.1) (List.replicate (row.2.2 + 1) 0)).body 0 = row.2.1 ∧
      (req (BitVec.ofNat 8 row.2.1) (List.replicate (row.2.2 + 1) 0)).body.length ≠ 4 + row.2.2) := by
  decide +kernel

theorem witness_LockGuard :
    Taking (asked (req 20 []) State.reset) (req 20 []) [] ∧ (asked (req 20 []) State.reset).agent.holder ≠ some (req 20 []).source ∧
    (∀ row ∈ operationTable, byteAt (req (BitVec.ofNat 8 row.2.1) (List.replicate row.2.2 1)).body 0 = row.2.1 ∧
      (req (BitVec.ofNat 8 row.2.1) (List.replicate row.2.2 1)).body.length = 4 + row.2.2) ∧
    byteAt (req 15 [255, 1]).body 5 ≠ 0 ∧ (Instr.deviceReset, 20, 0) ∈ operationTable ∧ Instr.deviceReset ∈ lockedCommands := by
  decide +kernel

theorem witness_LockAndUnlock :
    (∀ lease ∈ [99, 100, 60000, 60001], Taking (asked (req 1 (beBytes 2 lease)) managed) (req 1 (beBytes 2 lease)) [] ∧
      Carries (req 1 (beBytes 2 lease)) 1 (beBytes 2 lease)) ∧
    Carries (req 2 []) 2 [] ∧ managed.agent.holder = some 1 ∧ State.reset.agent.holder = none ∧
    ({ managed.agent with holder := some 2 }.holder = some 2 ∧ (2 : Source) ≠ (req 1 []).source) := by
  decide +kernel

theorem witness_SetDevice :
    ∀ f ∈ [63, 64, 1040, 1041], ∀ l ∈ [0, 1, 4094, 4095], ∀ r ∈ [(0 : Byte), 1, 2],
      Carries (req 4 (beBytes 2 f ++ beBytes 2 l ++ [r])) 4 (beBytes 2 f ++ beBytes 2 l ++ [r]) := by
  decide +kernel

theorem witness_ReadsAnswer :
    Carries (req 3 []) 3 [] ∧ Carries (req 17 []) 17 [] ∧ Carries (req 14 []) 14 [] ∧
    Carries (req 5 [127]) 5 [127] ∧ Carries (req 5 [128]) 5 [128] ∧
    (∀ label ∈ [100, 101, 4095, 4096], Carries (req 6 (beBytes 2 label)) 6 (beBytes 2 label)) ∧
    lookup 100 (busy .shifting) = some 3 ∧ lookup 101 (busy .shifting) = none ∧ Carries (req 11 [7]) 11 [7] ∧
    Carries (req 11 [8]) 11 [8] := by
  decide +kernel

theorem witness_WriteRoute :
    let block := configBytes readRoute
    block.length = 34 ∧ Carries (req 7 ([127, 0] ++ block)) 7 ([127, 0] ++ block) ∧
    Carries (req 7 ([128, 0] ++ block)) 7 ([128, 0] ++ block) ∧
    readConfig block = some readRoute ∧ EntryValid readRoute ∧ ¬ EntryValid { readRoute with label := 0 } ∧
    readConfig (configBytes { readRoute with label := 0 }) = some { readRoute with label := 0 } ∧
    readConfig (List.replicate 34 255) = none ∧
    ((busy .shifting).route 3).state = .opened ∧ (managed.route 3).state = .empty := by
  unfold EntryValid
  refine ⟨?_, ?_, ?_, ?_, ?_, ?_, ?_, ?_, ?_, ?_⟩ <;> decide +kernel

theorem witness_RouteStates :
    (∀ row ∈ [(Instr.openRoute, 8), (Instr.drainRoute, 9), (Instr.deleteRoute, 10)], ∀ n ∈ [(127 : Byte), 128],
      Carries (req (BitVec.ofNat 8 row.2) [n]) row.2 [n]) ∧
    ((busy .shifting).route 3).state = .opened ∧ ((busy .shifting).route 3).inUse = 3 ∧ (managed.route 127).state = .empty := by
  decide +kernel

theorem witness_SetLaneEnable :
    (∀ n ∈ [(7 : Byte), 8], ∀ en ∈ [(0 : Byte), 1, 2], Carries (req 12 [n, en, 1, 255]) 12 [n, en, 1, 255]) ∧
    (managed.lane 0).enabled = false ∧ ((resting .yielded).lane 0).enabled = true ∧ ((resting .yielded).lane 0).claimWatch = true ∧
    ((resting .yielded).lane 0).state = .yielded := by
  decide +kernel

theorem witness_SetLaneEnable_under_claim :
    ∀ st ∈ [LaneState.idle, .gap, .readyWait, .shifting],
      let e : LaneEngine := { attempting st with claimWatch := false, claimIn := true }
      e.enabled = true ∧ e.claimWatch = false ∧ e.claimIn = true ∧ e.state = st ∧ e.current = some 0 := by
  decide +kernel

theorem witness_LaneFlush :
    let s := asked (req 13 [0]) (busy .shifting)
    (MemLaw s ∧ LaneLaw s) ∧ (SlotLaw s ∧ PoolLaw s) ∧ Taking s (req 13 [0]) [] ∧ Holds s (req 13 [0]) 1000 ∧
    Carries (req 13 [0]) 13 [0] ∧ Carries (req 12 [0, 0, 1, 255]) 12 [0, 0, 1, 255] ∧ (s.lane 0).state ≠ .off ∧
    (s.lane 0).enabled = true ∧ (s.lane 1).state = .off := by
  refine ⟨?_, ?_, ?_, ?_, ?_, ?_, ?_, ?_, ?_⟩ <;> decide +kernel

theorem witness_ReadCounters :
    (∀ n ∈ [(31 : Byte), 32, 254, 255], ∀ clear ∈ [(0 : Byte), 1, 2], Carries (req 15 [n, clear]) 15 [n, clear]) ∧
    Taking (asked (req 15 [31, 1]) managed) (req 15 [31, 1]) [] ∧ Holds (asked (req 15 [31, 1]) managed) (req 15 [31, 1]) 1000 := by
  decide +kernel

/-- Settings at the ends of their ranges. -/
def edge (mode : FlowMode) (dest : Option Destination) : FlowSettings :=
  { mode := mode, poolHold := 1023, poolRelease := 1024, laneHold := 16, laneRelease := 15, holdTime := 65535, refreshInterval := 1
    destination := dest }

/-- Operands of SET_FLOW with the mode and the destination spelled by given bytes. -/
def flowOperands (mode : Byte) (dest : List Byte) : List Byte := mode :: (flowBlock (edge .off none)).tail.take 10 ++ dest

/-- Destinations in range: none with the rest not read, and the ends of the ranges, with bytes past the labels not read. -/
theorem witness_Spells :
    Spells [255, 9, 9, 9, 9, 9, 9, 9] none ∧
    Spells [63, 3, 15, 254, 0, 0, 15, 254] (some { source := 63, stack := [4094, 0, 4094] }) ∧
    Spells [0, 1, 0, 1, 255, 255, 255, 255] (some { source := 0, stack := [1] }) := by
  unfold Spells
  refine ⟨?_, ?_, ?_⟩ <;> decide +kernel

/-- Destinations out of range: a source of 64 or 254, a label count of 0 or 4, a first label of 0 or 4095, a later one of 4095. -/
theorem witness_SpellsNone :
    SpellsNone [64, 1, 0, 1, 0, 0, 0, 0] ∧ SpellsNone [254, 1, 0, 1, 0, 0, 0, 0] ∧ SpellsNone [0, 0, 0, 1, 0, 0, 0, 0] ∧
    SpellsNone [0, 4, 0, 1, 0, 0, 0, 0] ∧ SpellsNone [0, 1, 0, 0, 0, 0, 0, 0] ∧ SpellsNone [0, 1, 15, 255, 0, 0, 0, 0] ∧
    SpellsNone [0, 3, 0, 1, 0, 0, 15, 255] :=
  ⟨⟨by decide, .inl (by decide)⟩, ⟨by decide, .inl (by decide)⟩, ⟨by decide, .inr (.inl (by decide))⟩,
    ⟨by decide, .inr (.inr (.inl (by decide)))⟩, ⟨by decide, .inr (.inr (.inr (.inl (by decide))))⟩,
    ⟨by decide, .inr (.inr (.inr (.inr ⟨0, by decide, by decide⟩)))⟩, ⟨by decide, .inr (.inr (.inr (.inr ⟨2, by decide, by decide⟩)))⟩⟩

/-- Settings at the ends of their ranges, and beyond one, are spelled by their blocks. -/
theorem witness_SpellsFlow :
    SpellsFlow (flowBlock (edge .holdRelease (some { source := 63, stack := [4094, 0, 4094] }))) (edge .holdRelease (some { source := 63, stack := [4094, 0, 4094] })) ∧
    SpellsFlow (flowBlock { edge .off none with poolHold := 1024 }) { edge .off none with poolHold := 1024 } := by
  have hd : Spells ((flowBlock (edge .holdRelease (some { source := 63, stack := [4094, 0, 4094] }))).drop 11) (some { source := 63, stack := [4094, 0, 4094] }) := by
    unfold Spells; decide +kernel
  have hn : Spells ((flowBlock { edge .off none with poolHold := 1024 }).drop 11) none := by unfold Spells; decide +kernel
  exact ⟨⟨by decide +kernel, by decide +kernel, by decide +kernel, by decide +kernel, by decide +kernel, by decide +kernel,
    by decide +kernel, hd⟩, ⟨by decide +kernel, by decide +kernel, by decide +kernel, by decide +kernel, by decide +kernel,
    by decide +kernel, by decide +kernel, hn⟩⟩

theorem witness_SetFlow :
    let g := edge .holdRelease (some { source := 63, stack := [4094, 0, 4094] })
    let q := req 16 (flowBlock g)
    let s := asked q (busy .shifting)
    FlowLaw s ∧ Taking s q [] ∧ Holds s q 1000 ∧ (flowBlock g).length = 19 ∧ Carries q 16 (flowBlock g) ∧
    FlowRanges g ∧ (after .setFlow s).flow.state = .holding ∧
    (after .setFlow (asked (req 16 (flowBlock (edge .off none))) s)).flow.state = .clear := by
  refine ⟨?_, ?_, ?_, ?_, ?_, ?_, ?_, ?_⟩ <;> decide +kernel

theorem witness_SetFlow_refused :
    let none8 : List Byte := [255, 0, 0, 0, 0, 0, 0, 0]
    (flowOperands 3 none8).length = 19 ∧ 2 < byteAt (flowOperands 3 none8) 0 ∧ ¬ 2 < byteAt (flowOperands 2 none8) 0 ∧
    (flowOperands 0 [64, 1, 0, 1, 0, 0, 0, 0]).drop 11 = [64, 1, 0, 1, 0, 0, 0, 0] ∧
    ¬ FlowRanges { edge .off none with poolHold := 1024 } ∧
    (∀ ops ∈ [flowOperands 3 none8, flowOperands 0 [64, 1, 0, 1, 0, 0, 0, 0], flowOperands 0 [0, 4, 0, 1, 0, 0, 0, 0]],
      (after .setFlow (asked (req 16 ops) managed)).agent.buffer.map (·.result) = some .badValue) := by
  refine ⟨?_, ?_, ?_, ?_, ?_, ?_⟩ <;> decide +kernel

theorem witness_SetFlow_from_holding :
    let g (mode : FlowMode) : FlowSettings :=
      { edge mode (some { source := 0, stack := [50] }) with poolHold := 0, poolRelease := 1 }
    let s (mode : FlowMode) := asked (req 16 (flowBlock (g mode))) (judgeFlow (flowing .holdRelease .clear false 128))
    FlowLaw (s .holdRelease) ∧ (s .holdRelease).flow.state = .holding ∧ (after .setFlow (s .holdRelease)).flow.state = .clear ∧
    (after .setFlow (s .holdOnly)).flow.state = .clear ∧ (after .setFlow (s .holdOnly)).flow.pendingHold = none := by
  refine ⟨?_, ?_, ?_, ?_, ?_⟩ <;> decide +kernel

theorem witness_SetEvents :
    let ops (mask : Nat) (dest : List Byte) := beBytes 2 mask ++ dest ++ beBytes 2 65535
    (∀ mask ∈ [511, 512], ∀ dest ∈ [[255, 9, 9, 9, 9, 9, 9, 9], [63, 3, 15, 254, 0, 0, 15, 254], [64, 1, 0, 1, 0, 0, 0, 0]],
      (ops mask dest).length = 12 ∧ Carries (req 18 (ops mask dest)) 18 (ops mask dest) ∧ fieldAt (ops mask dest) 0 2 = mask ∧
      ((ops mask dest).drop 2).take 8 = dest) ∧
    Spells ((ops 511 [255, 9, 9, 9, 9, 9, 9, 9]).drop 2) none ∧
    Spells ((ops 511 [63, 3, 15, 254, 0, 0, 15, 254]).drop 2) (some { source := 63, stack := [4094, 0, 4094] }) ∧
    managed.events.destination = none ∧ managed.events.state = .quiet ∧
    (after .setEvents (asked (req 18 (ops 511 [64, 1, 0, 1, 0, 0, 0, 0])) managed)).agent.buffer.map (·.result) = some .badValue := by
  unfold Spells
  refine ⟨?_, ?_, ?_, ?_, ?_, ?_⟩ <;> decide +kernel

/-- An EVENT frame with number 0 is outstanding at source 1. -/
def noticed : State :=
  { managed with
    events := { (setCondition .linkRestored managed).events with
      conditions := Vector.replicate 9 .reported, destination := some { source := 1, stack := [60] }, mask := 0
      state := .outstanding, outstanding := some 0, repeatInterval := 100, repeatTimer := some 100000, nextNumber := 1 } }

theorem witness_SetEvents_in_progress :
    noticed.events.state = .outstanding ∧ noticed.events.outstanding = some 0 ∧ noticed.trans.output = none ∧
    contended.events.state = .requested ∧ contended.events.destination = some { source := 2, stack := [60] } := by
  decide +kernel

/-- R165: an interval of 0 set while a repeat waits applies at its frame's end: no repeat timer is left running. -/
theorem test_new_interval_at_frame_end :
    let s : State := { noticed with events := { noticed.events with request := true, repeatTimer := none } }
    let set (interval : Nat) := after .setEvents ∘
      asked (req 18 (beBytes 2 0 ++ destinationBytes s.events.destination ++ beBytes 2 interval))
    let sent (t : State) : State := after .outputGrant (after .frameEnd (after .outputGrant t))
    (sent (set 5 s)).events.repeatTimer = none ∧
    (after .frameEnd (set 0 (sent (set 5 s)))).events.repeatTimer = none ∧
    (after .frameEnd (sent (set 5 s))).events.repeatTimer = some 5000 := by
  refine ⟨?_, ?_, ?_⟩ <;> decide +kernel

theorem witness_AckEvents :
    let q (named : Nat) := req 19 ([0, 0] ++ beBytes 2 named)
    (∀ named ∈ [0, 511, 512], Carries (q named) 19 ([0, 0] ++ beBytes 2 named)) ∧ Taking (asked (q 511) noticed) (q 511) [] ∧
    noticed.events.destination = some { source := 1, stack := [60] } ∧ (q 511).source = 1 ∧ noticed.events.outstanding = some 0 ∧
    contended.events.destination = some { source := 2, stack := [60] } ∧ contended.events.outstanding ≠ some 0 ∧
    (after .ackEvents (asked (q 511) noticed)).events.setMembers = 0 := by
  refine ⟨?_, ?_, ?_, ?_, ?_, ?_, ?_, ?_⟩ <;> decide +kernel

theorem witness_DeviceReset :
    let s := asked (req 20 []) (busy .shifting)
    (MemLaw s ∧ PoolLaw s) ∧ Taking s (req 20 []) [] ∧ s.agent.holder = some (req 20 []).source ∧ Carries (req 20 []) 20 [] ∧
    (s.lane 0).state = .shifting ∧ (∀ l, ((busy .readyWait).lane l).state ≠ .shifting) := by
  refine ⟨?_, ?_, ?_, ?_, ?_, ?_⟩ <;> decide +kernel

/-! ### Witnesses: counters, formats and the laws -/

theorem witness_LengthBuckets :
    ((busy .shifting).slotRoute 0).counterSet = some 0 ∧
    ((busy .shifting).slot 0).writeCount + ((busy .shifting).slot 0).readCount = 1 := by
  decide +kernel

theorem witness_ConfigRoundTrip : EntryValid readRoute ∧ readRoute.readyTimeout ≤ 65535 := by
  unfold EntryValid
  decide +kernel

/-- The laws hold before a step that ends an attempt, and the step answers a next state. -/
def ending : State := { busy .shifting with pending := [.endOfLastWord 0 []] }

theorem witness_MemoryLawKept : MemLaw ending ∧ ∃ t, step ending = .next t := ⟨by decide +kernel, _, rfl⟩
theorem witness_LabelLawKept : LabelLaw ending ∧ ∃ t, step ending = .next t := ⟨by decide +kernel, _, rfl⟩
theorem witness_LaneLawKept : LaneLaw ending ∧ ∃ t, step ending = .next t := ⟨by decide +kernel, _, rfl⟩
theorem witness_AgentLawKept : AgentLaw ending ∧ ∃ t, step ending = .next t := ⟨by decide +kernel, _, rfl⟩
theorem witness_EventLawKept : EventLaw ending ∧ ∃ t, step ending = .next t := ⟨by decide +kernel, _, rfl⟩
theorem witness_OutputLawKept : OutputLaw ending ∧ ∃ t, step ending = .next t := ⟨by decide +kernel, _, rfl⟩

theorem witness_FlowLawKept : FlowLaw ending ∧ LaneLaw ending ∧ ∃ t, step ending = .next t :=
  ⟨by decide +kernel, by decide +kernel, _, rfl⟩

theorem witness_TableLawKept : TableLaw ending ∧ LaneLaw ending ∧ OutputLaw ending ∧ ∃ t, step ending = .next t :=
  ⟨⟨by decide +kernel, by decide +kernel, by decide +kernel, by decide +kernel⟩, by decide +kernel, by decide +kernel, _, rfl⟩

end Sys2Proof.Tests
end

/-!
PROOFS. WRITE_ROUTE (R10 to R13, R138): the entry checks of R11, the label check of R12, what the operation answers in each case of
R10's order, and from them O40.
-/
namespace Sys2Proof.Machine

open Sys2Proof.Safety

/-! ### The entry checks -/

/-- A select set that is not empty is a broadcast unless it names one line alone (R2). -/
theorem isBroadcast_eq_false_iff : ∀ x : BitVec 4, x ≠ 0 → (isBroadcast x = false ↔ ∃ k : Fin 4, x = 1#4 <<< k.val) := by
  decide

/-- The entry checks of the model are those of R11: the limits of a shape by the shape, the other fields by their ranges. -/
theorem entryOk_iff (g : RouteConfig) : entryOk g = true ↔ EntryValid g := by
  by_cases hs : g.selects = 0
  · simp [entryOk, EntryValid, hs]
  have hb := isBroadcast_eq_false_iff g.selects hs
  cases hg : g.shape <;>
    simp [entryOk, EntryValid, hg, ← hb, imp_iff_not_or, and_assoc, and_left_comm (a := g.clockDivisor % 2 = 0)]

/-- The label check finds another entry that is not EMPTY and holds the label (R12). -/
theorem labelTaken_iff {r : RouteId} {label : Nat} {s : State} :
    labelTaken r label s = true ↔ ∃ k, k ≠ r ∧ (s.route k).state ≠ .empty ∧ (s.route k).config.label = label := by
  simp [labelTaken, and_assoc]

/-! ### What WRITE_ROUTE answers, in the order of R10 -/

section
variable {src : Source} {n z : Byte} {block : List Byte} {s : State} {r : RouteId} {g : RouteConfig}

theorem runWriteRoute_badIndex (hn : 128 ≤ n.toNat) : runWriteRoute src (n :: z :: block) s = failWith .badIndex s := by
  simp only [runWriteRoute, byteAt_cons_zero, routeOf_none hn]

/-- A block with a code that names no value is BAD_ENTRY (R11). -/
theorem runWriteRoute_unreadable (hr : r.val = n.toNat) (hg : readConfig block = none) :
    runWriteRoute src (n :: z :: block) s = failWith .badEntry s := by
  simp only [runWriteRoute, byteAt_cons_zero, routeOf_eq hr, List.drop_succ_cons, List.drop_zero, hg]

/-- Past the index and the reading of the block, the checks left are the fields, the state and the label (R10). -/
theorem runWriteRoute_read (hr : r.val = n.toNat) (hg : readConfig block = some g) :
    runWriteRoute src (n :: z :: block) s =
      if ¬ entryOk g then failWith .badEntry s
      else if (s.route r).state ≠ .empty ∧ (s.route r).state ≠ .closed then failWith .wrongState s
      else if labelTaken r g.label s then failWith .labelInUse s
      else doneWith [n, 1] (s.setRoute r { s.route r with config := g, state := .closed }) := by
  have hn : BitVec.ofNat 8 r.val = n := by rw [hr, BitVec.ofNat_toNat, BitVec.setWidth_eq]
  simp only [runWriteRoute, byteAt_cons_zero, routeOf_eq hr, List.drop_succ_cons, List.drop_zero, hg, hn, State.setRoute_route,
    if_true, RouteState.code]
  rfl

theorem runWriteRoute_invalid (hr : r.val = n.toNat) (hg : readConfig block = some g) (hv : ¬ EntryValid g) :
    runWriteRoute src (n :: z :: block) s = failWith .badEntry s := by
  rw [runWriteRoute_read hr hg, if_pos (mt (entryOk_iff g).mp hv)]

theorem runWriteRoute_wrongState (hr : r.val = n.toNat) (hg : readConfig block = some g) (hv : EntryValid g)
    (hst : (s.route r).state = .opened ∨ (s.route r).state = .draining) :
    runWriteRoute src (n :: z :: block) s = failWith .wrongState s := by
  have hne : (s.route r).state ≠ .empty ∧ (s.route r).state ≠ .closed := by
    rcases hst with h | h <;> simp [h]
  rw [runWriteRoute_read hr hg, if_neg (not_not_intro ((entryOk_iff g).mpr hv)), if_pos hne]

/-- An EMPTY or CLOSED entry takes valid fields unless their label is in use (R12, R13). -/
theorem runWriteRoute_writable (hr : r.val = n.toNat) (hg : readConfig block = some g) (hv : EntryValid g)
    (hst : (s.route r).state = .empty ∨ (s.route r).state = .closed) :
    runWriteRoute src (n :: z :: block) s =
      if labelTaken r g.label s then failWith .labelInUse s
      else doneWith [n, 1] (s.setRoute r { s.route r with config := g, state := .closed }) := by
  have hne : ¬ ((s.route r).state ≠ .empty ∧ (s.route r).state ≠ .closed) := by tauto
  rw [runWriteRoute_read hr hg, if_neg (not_not_intro ((entryOk_iff g).mpr hv)), if_neg hne]

end

/-! ### The serving of WRITE_ROUTE -/

section
variable {s : State} {q : MgmtRequest} {rest : List MgmtRequest} {lease : Nat} {operands : List Byte}

theorem exec_writeRoute (s : State) : exec .writeRoute s = .next (serve opWriteRoute s) := rfl

/-- A WRITE_ROUTE of the holder that fails a check changes nothing but the agent (R10). -/
theorem exec_writeRoute_refused {res : MgmtResult} (ht : Taking s q rest) (hh : Holds s q lease) (hl : operands.length = 36)
    (hc : Carries q 7 operands) (hr : runWriteRoute q.source operands (taken s rest) = failWith res (taken s rest))
    (hd : res ≠ .done) :
    exec .writeRoute s = .next (withAgent s (answered s q rest res [])) := by
  rw [exec_writeRoute, serve_of_holder_refused (op := opWriteRoute) ht hc (by decide) hl rfl hh.1 hr hd]

/-- A WRITE_ROUTE of the holder that passes every check replaces one entry and restarts the lease (R13, R131). -/
theorem exec_writeRoute_done {fields : List Byte} {r : RouteId} {e : RouteEntry} (ht : Taking s q rest) (hh : Holds s q lease)
    (hl : operands.length = 36) (hc : Carries q 7 operands)
    (hr : runWriteRoute q.source operands (taken s rest) = doneWith fields ((taken s rest).setRoute r e)) :
    exec .writeRoute s = .next { s with agent := renewed s q rest lease fields, routes := s.routes.set r e } := by
  rw [exec_writeRoute, serve_of_holder_done (op := opWriteRoute) ht hc (by decide) hl rfl hh hr rfl]
  rfl

end

/-- Settles O40: each clause is the case of `runWriteRoute` that its hypotheses select, served for the holder. -/
theorem writeRoute : Obligations.WriteRoute := by
  intro s q rest lease n z g block ht hh hb hc
  have hl : (n :: z :: block).length = 36 := by simp [hb]
  refine ⟨fun hn => ?badIndex, fun r hr => ⟨?badEntry, fun hg hv => ⟨fun hst => ?wrongState, fun hst => ?writable⟩⟩⟩
  case badIndex => exact exec_writeRoute_refused ht hh hl hc (runWriteRoute_badIndex hn) (by decide)
  case badEntry =>
    rintro (hg | ⟨hg, hv⟩)
    · exact exec_writeRoute_refused ht hh hl hc (runWriteRoute_unreadable hr hg) (by decide)
    · exact exec_writeRoute_refused ht hh hl hc (runWriteRoute_invalid hr hg hv) (by decide)
  case wrongState => exact exec_writeRoute_refused ht hh hl hc (runWriteRoute_wrongState hr hg hv hst) (by decide)
  case writable =>
    have hrun := runWriteRoute_writable (src := q.source) (z := z) (s := taken s rest) hr hg hv hst
    rw [ite_prop_iff_and]
    refine ⟨fun hk => ?labelInUse, fun hk => ?done⟩
    case labelInUse => exact exec_writeRoute_refused ht hh hl hc (hrun.trans (if_pos (labelTaken_iff.mpr hk))) (by decide)
    case done => exact exec_writeRoute_done ht hh hl hc (hrun.trans (if_neg (mt labelTaken_iff.mp hk)))

end Sys2Proof.Machine

/-!
PROOFS. POWER_ON: what stands at each index of the tables after power-on, and from it O4 (R63).
-/
namespace Sys2Proof.Machine

/-! ### The tables of the reset state -/

/-- A slot has its FREE values after reset (R46, R63). -/
@[simp] theorem State.reset_slot (i : SlotId) : State.reset.slot i = Slot.freed := by
  simp only [State.slot, State.reset, Fin.getElem_fin, Vector.getElem_replicate]

/-- A lane queue is empty after reset (R63). -/
@[simp] theorem State.reset_queue (l : LaneId) : State.reset.queue l = [] := by
  simp only [State.queue, State.reset, Fin.getElem_fin, Vector.getElem_replicate]

/-- A route entry is EMPTY after reset, with the configuration of R6. -/
@[simp] theorem State.reset_route (r : RouteId) : State.reset.route r = RouteEntry.powerOn := by
  simp only [State.route, State.reset, Fin.getElem_fin, Vector.getElem_replicate]

/-! ### The tables after POWER_ON -/

section
variable (s : State)

theorem exec_powerOn : exec .powerOn s = .next (powerOn s) := rfl

@[simp] theorem powerOn_slot (i : SlotId) : (powerOn s).slot i = Slot.freed := State.reset_slot i

@[simp] theorem powerOn_queue (l : LaneId) : (powerOn s).queue l = [] := State.reset_queue l

@[simp] theorem powerOn_route (r : RouteId) : (powerOn s).route r = RouteEntry.powerOn := State.reset_route r

/-- A lane engine has its power-on values after POWER_ON, the levels at its inputs as they stood (R88, log 4). -/
@[simp] theorem powerOn_lane (l : LaneId) :
    (powerOn s).lane l = { LaneEngine.powerOn with readyIn := (s.lane l).readyIn, claimIn := (s.lane l).claimIn } := by
  simp only [State.lane, powerOn, resetLanes, Fin.getElem_fin, Vector.getElem_map]

@[simp] theorem powerOn_completion : (powerOn s).completion = [] := rfl

@[simp] theorem powerOn_freeCells : (powerOn s).freeCells = 1024 := rfl

end

/-- Settles O4: each clause is what `powerOn` leaves in one table, at every index. -/
theorem powerOnTable : Obligations.PowerOnTable := by
  intro s
  refine ⟨powerOn s, exec_powerOn s, powerOn_slot s, powerOn_queue s, powerOn_completion s, fun l => ?noCurrent,
    powerOn_freeCells s, fun r => ?notInUse⟩
  case noCurrent => rw [powerOn_lane, LaneEngine.powerOn]
  case notInUse => rw [powerOn_route, RouteEntry.powerOn]

end Sys2Proof.Machine

/-!
PROOFS. LOCK, UNLOCK and SET_DEVICE (R129, R130, R135): what each operation answers in each case of its rule, and from them O37 and O38.
-/
namespace Sys2Proof.Machine

open Sys2Proof.Safety

/-! ### LOCK, executed -/

section
variable {src : Source} {lease : Nat} {s : State}

/-- The lease operand of LOCK read back. -/
theorem fieldAt_lease (hlt : lease < 65536) : fieldAt (beBytes 2 lease) 0 2 = lease := by
  simpa using fieldAt_zero (post := []) (k := 2) hlt

/-- A lease outside 100 to 60000 ms is refused, whoever holds the lock (R129). -/
theorem runLock_badValue (hlt : lease < 65536) (h : lease < 100 ∨ 60000 < lease) :
    runLock src (beBytes 2 lease) s = failWith .badValue s := by
  rw [runLock, fieldAt_lease hlt, if_pos h]

/-- A free lock is granted and the requester's own is renewed (R129). -/
theorem runLock_granted (hlt : lease < 65536) (h1 : 100 ≤ lease) (h2 : lease ≤ 60000)
    (hh : s.agent.holder = none ∨ s.agent.holder = some src) :
    runLock src (beBytes 2 lease) s = doneWith ([BitVec.ofNat 8 src.val, 0] ++ beBytes 2 lease) (grantLock src lease s) := by
  rw [runLock, fieldAt_lease hlt, if_neg (by omega)]
  rcases hh with hh | hh
  · simp only [hh]
  · simp only [hh, if_true]

/-- While another source holds the lock, LOCK names the holder and changes nothing (R129). -/
theorem runLock_locked {k : Source} (hlt : lease < 65536) (h1 : 100 ≤ lease) (h2 : lease ≤ 60000)
    (hh : s.agent.holder = some k) (hk : k ≠ src) :
    runLock src (beBytes 2 lease) s = { result := .locked, fields := [BitVec.ofNat 8 k.val], state := s } := by
  rw [runLock, fieldAt_lease hlt, if_neg (by omega)]
  simp only [hh, hk, if_false]

end

/-! ### LOCK and UNLOCK, served -/

section
variable {s : State} {q : MgmtRequest} {rest : List MgmtRequest} {lease : Nat}

theorem exec_lock (s : State) : exec .lock s = .next (serve opLock s) := rfl

theorem exec_unlock (s : State) : exec .unlock s = .next (serve opUnlock s) := rfl

/-- LOCK requires no lock itself, so it is executed for every source (R128, R129). -/
theorem serve_lock (ht : Taking s q rest) (hc : Carries q 1 (beBytes 2 lease)) {a : OpReply}
    (hr : runLock q.source (beBytes 2 lease) (taken s rest) = a) :
    serve opLock s = withAgent a.state (responding a.state.agent s q a.result a.fields) :=
  hr ▸ serve_of_free (op := opLock) ht hc (by decide) (beBytes_length 2 lease) rfl

theorem exec_lock_badValue (ht : Taking s q rest) (hc : Carries q 1 (beBytes 2 lease)) (hlt : lease < 65536)
    (h : lease < 100 ∨ 60000 < lease) :
    exec .lock s = .next (withAgent s (answered s q rest .badValue [])) := by
  rw [exec_lock, serve_lock ht hc (runLock_badValue hlt h)]
  rfl

theorem exec_lock_granted (ht : Taking s q rest) (hc : Carries q 1 (beBytes 2 lease)) (hlt : lease < 65536) (h1 : 100 ≤ lease)
    (h2 : lease ≤ 60000) (hh : s.agent.holder = none ∨ s.agent.holder = some q.source) :
    exec .lock s = .next (withAgent s ({ answered s q rest .done ([BitVec.ofNat 8 q.source.val, 0] ++ beBytes 2 lease) with
      holder := some q.source, lease := some lease, remaining := lease * 1000 })) := by
  rw [exec_lock, serve_lock ht hc (runLock_granted hlt h1 h2 hh)]
  rfl

theorem exec_lock_locked {k : Source} (ht : Taking s q rest) (hc : Carries q 1 (beBytes 2 lease)) (hlt : lease < 65536)
    (h1 : 100 ≤ lease) (h2 : lease ≤ 60000) (hh : s.agent.holder = some k) (hk : k ≠ q.source) :
    exec .lock s = .next (withAgent s (answered s q rest .locked [BitVec.ofNat 8 k.val])) := by
  rw [exec_lock, serve_lock ht hc (runLock_locked hlt h1 h2 hh hk)]
  rfl

/-- UNLOCK frees the lock of its holder; from any other source it is NOT_HOLDER (R130). -/
theorem exec_unlock_eq (ht : Taking s q rest) (hc : Carries q 2 []) :
    exec .unlock s = .next (withAgent s (if s.agent.holder = some q.source then
        { answered s q rest .done [] with holder := none, lease := none, remaining := 0 }
      else answered s q rest .notHolder [])) := by
  by_cases hh : s.agent.holder = some q.source
  · have hrun : opUnlock.run q.source [] (taken s rest) = doneWith [] _ := if_pos hh
    rw [if_pos hh, exec_unlock, serve_of_free (op := opUnlock) ht hc (by decide) rfl rfl, hrun]
    rfl
  · rw [if_neg hh, exec_unlock, serve_of_refused (op := opUnlock) ht hc (by decide) rfl rfl (if_neg hh)]

end

/-- Settles O37: the cases of LOCK are those of R129, judged in its order; UNLOCK frees the lock of its holder alone. -/
theorem lockAndUnlock : Obligations.LockAndUnlock := by
  intro s q rest ht
  refine ⟨fun lease hlt hc => ⟨fun h => ?badValue, fun h1 h2 hh => ?granted, fun k h1 h2 hh hk => ?locked⟩, fun hc => ?unlock⟩
  case badValue => exact exec_lock_badValue ht hc hlt h
  case granted => exact exec_lock_granted ht hc hlt h1 h2 hh
  case locked => exact exec_lock_locked ht hc hlt h1 h2 hh hk
  case unlock => exact exec_unlock_eq ht hc

/-! ### SET_DEVICE, executed -/

/-- The operands of SET_DEVICE: the frame limit, the reply label and react (R135). -/
def deviceOperands (maxFrame label : Nat) (react : Byte) : List Byte := beBytes 2 maxFrame ++ beBytes 2 label ++ [react]

/-- The state with the three device settings stored; react off ends the inbound hold (R135). -/
def withSettings (maxFrame label : Nat) (react : Byte) (s : State) : State :=
  { s with
    agent := { s.agent with maxFrame := maxFrame, replyLabel := label, react := decide (react = 1) }
    trans := { s.trans with inboundHold := if react = 0 then 0 else s.trans.inboundHold } }

section
variable {src : Source} {s : State} {maxFrame label : Nat} {react : Byte}

/-- The three operands of SET_DEVICE read back as they were laid out. -/
theorem deviceOperands_read (hm : maxFrame < 65536) (hl : label < 65536) :
    fieldAt (deviceOperands maxFrame label react) 0 2 = maxFrame ∧ fieldAt (deviceOperands maxFrame label react) 2 2 = label ∧
      byteAt (deviceOperands maxFrame label react) 4 = react.toNat := by
  refine ⟨?_, fieldAt_append (beBytes_length 2 maxFrame) hl, rfl⟩
  rw [deviceOperands, List.append_assoc]
  exact fieldAt_zero hm

theorem boolByte_decide (h : react = 0 ∨ react = 1) : boolByte (decide (react = 1)) = react := by
  rcases h with rfl | rfl <;> rfl

/-- Settings in range are stored together, and the reply carries them as they were given (R135). -/
theorem runSetDevice_stored (hm : 64 ≤ maxFrame ∧ maxFrame ≤ 1040) (hl : 1 ≤ label ∧ label ≤ 4094) (hr : react = 0 ∨ react = 1) :
    runSetDevice src (deviceOperands maxFrame label react) s =
      doneWith (deviceOperands maxFrame label react) (withSettings maxFrame label react s) := by
  obtain ⟨h0, h2, h4⟩ := deviceOperands_read (react := react) (show maxFrame < 65536 by omega) (show label < 65536 by omega)
  have hhold : (if decide (react = 1) = true then s.trans.inboundHold else 0) = if react = 0 then 0 else s.trans.inboundHold := by
    rcases hr with rfl | rfl <;> rfl
  rw [runSetDevice, h0, h2, h4, boolOf_eq hr]
  simp only [if_neg (show ¬ (maxFrame < 64 ∨ 1040 < maxFrame ∨ label < 1 ∨ 4094 < label) by omega), settingsBytes,
    boolByte_decide hr, hhold, deviceOperands, withSettings]

/-- Settings of which one is out of range are refused, and none is stored (R135). -/
theorem runSetDevice_badValue (hm : maxFrame < 65536) (hl : label < 65536)
    (h : ¬ (64 ≤ maxFrame ∧ maxFrame ≤ 1040 ∧ 1 ≤ label ∧ label ≤ 4094 ∧ (react = 0 ∨ react = 1))) :
    runSetDevice src (deviceOperands maxFrame label react) s = failWith .badValue s := by
  obtain ⟨h0, h2, h4⟩ := deviceOperands_read (react := react) hm hl
  rw [runSetDevice, h0, h2, h4]
  by_cases hr : react = 0 ∨ react = 1
  · have hout : maxFrame < 64 ∨ 1040 < maxFrame ∨ label < 1 ∨ 4094 < label := by
      simp only [hr, and_true] at h
      omega
    rw [boolOf_eq hr]
    simp only [if_pos hout]
  · rw [boolOf_none (by bv_omega)]

end

/-! ### SET_DEVICE, served -/

section
variable {s : State} {q : MgmtRequest} {rest : List MgmtRequest} {lease maxFrame label : Nat} {react : Byte}

theorem exec_setDevice (s : State) : exec .setDevice s = .next (serve opSetDevice s) := rfl

/-- The lease of the holder restarts from the lease it was granted (R131). -/
theorem restartLease_of_holder {src : Source} (hh : s.agent.holder = some src) (hl : s.agent.lease = some lease) :
    restartLease src s = { s with agent := { s.agent with remaining := lease * 1000 } } := by
  rw [restartLease, if_pos hh, hl]
  rfl

/-- Settings in range are stored and the lease restarts; the response stands under the label from before (R22, R131, R135). -/
theorem exec_setDevice_stored (ht : Taking s q rest) (hh : Holds s q lease) (hc : Carries q 4 (deviceOperands maxFrame label react))
    (hm : 64 ≤ maxFrame ∧ maxFrame ≤ 1040) (hl : 1 ≤ label ∧ label ≤ 4094) (hr : react = 0 ∨ react = 1) :
    exec .setDevice s = .next { s with
      agent := { renewed s q rest lease (deviceOperands maxFrame label react) with
        maxFrame := maxFrame, replyLabel := label, react := decide (react = 1) }
      trans := { s.trans with inboundHold := if react = 0 then 0 else s.trans.inboundHold } } := by
  have hrun : opSetDevice.run q.source (deviceOperands maxFrame label react) (taken s rest) =
      doneWith (deviceOperands maxFrame label react) (withSettings maxFrame label react (taken s rest)) :=
    runSetDevice_stored (src := q.source) hm hl hr
  have hlease : restartLease q.source (withSettings maxFrame label react (taken s rest)) = _ :=
    restartLease_of_holder hh.1 hh.2
  rw [exec_setDevice, serve_of_holder (op := opSetDevice) ht hc (by decide) rfl rfl hh.1, hrun]
  simp only [doneWith, if_true, hlease]
  rfl

/-- Settings out of range change nothing but the agent's queue and answer (R135). -/
theorem exec_setDevice_badValue (ht : Taking s q rest) (hh : Holds s q lease)
    (hc : Carries q 4 (deviceOperands maxFrame label react)) (hm : maxFrame < 65536) (hl : label < 65536)
    (h : ¬ (64 ≤ maxFrame ∧ maxFrame ≤ 1040 ∧ 1 ≤ label ∧ label ≤ 4094 ∧ (react = 0 ∨ react = 1))) :
    exec .setDevice s = .next (withAgent s (answered s q rest .badValue [])) := by
  rw [exec_setDevice, serve_of_holder_refused (op := opSetDevice) ht hc (by decide) rfl rfl hh.1
    (runSetDevice_badValue (src := q.source) hm hl h) (by decide)]

end

/-- Settles O38: the settings are judged by the ranges of R135, and either all three are stored or none. -/
theorem setDevice : Obligations.SetDevice := by
  intro s q rest lease maxFrame label react ht hh hm hl hc
  rw [ite_prop_iff_and]
  refine ⟨fun ⟨hm1, hm2, hl1, hl2, hr⟩ => ?stored, fun h => ?badValue⟩
  case stored => exact exec_setDevice_stored ht hh hc ⟨hm1, hm2⟩ ⟨hl1, hl2⟩ hr
  case badValue => exact exec_setDevice_badValue ht hh hc hm hl h

end Sys2Proof.Machine

/-!
PROOFS. The counters: the 40-bit addition of R154 and the length buckets of R151, and from them O49 and O50.
-/
namespace Sys2Proof.Machine

open Sys2Proof.Safety

/-! ### The wrap of a counter -/

/-- An amount below the modulus wraps a counter at most once (R154). -/
theorem counter_toNat_add (v : Counter) {n : Nat} (hn : n < 1099511627776) :
    (v + BitVec.ofNat 40 n).toNat =
      if v.toNat + n ≤ 1099511627775 then v.toNat + n else v.toNat + n - 1099511627776 := by
  have hv : v.toNat < 1099511627776 := v.isLt
  rw [BitVec.toNat_add, BitVec.toNat_ofNat]
  split <;> omega

section
variable (s : State)

/-- An addition to a set counter leaves every field but the Counter Bank. -/
theorem bumpSet_eq (k : Option SetId) (c : SetCounter) (n : Nat) :
    bumpSet k c n s = { s with counters := (bumpSet k c n s).counters } := rfl

/-- An addition to a device counter leaves every field but the Counter Bank. -/
theorem bumpDevice_eq (c : DeviceCounter) (n : Nat) :
    bumpDevice c n s = { s with counters := (bumpDevice c n s).counters } := rfl

theorem bumpSet_setCount_same (k : SetId) (c : SetCounter) (n : Nat) :
    (bumpSet (some k) c n s).setCount k c = s.setCount k c + BitVec.ofNat 40 n := by
  rw [bumpSet_setCount, if_pos ⟨rfl, rfl⟩]

theorem bumpSet_setCount_of_ne {k j : SetId} {c d : SetCounter} (n : Nat) (h : j ≠ k ∨ d ≠ c) :
    (bumpSet (some k) c n s).setCount j d = s.setCount j d := by
  have hne : ¬ (some k = some j ∧ c = d) := by
    rintro ⟨hk, hc⟩
    exact h.elim (· (Option.some.inj hk).symm) (· hc.symm)
  rw [bumpSet_setCount, if_neg hne]

theorem bumpDevice_deviceCount_same (c : DeviceCounter) (n : Nat) :
    (bumpDevice c n s).deviceCount c = s.deviceCount c + BitVec.ofNat 40 n := by
  rw [bumpDevice_deviceCount, if_pos rfl]

theorem bumpDevice_deviceCount_of_ne {c d : DeviceCounter} (n : Nat) (h : d ≠ c) :
    (bumpDevice c n s).deviceCount d = s.deviceCount d := by
  rw [bumpDevice_deviceCount, if_neg h.symm]

end

/-- Settles O49: the counter added to is read back through the one wrap of R154, every other counter through its frame rule. -/
theorem counterWrap : Obligations.CounterWrap := by
  refine ⟨fun s k c n hn => ⟨?setSum, fun j d => bumpSet_setCount_of_ne s n, bumpSet_deviceCount s (some k) c n,
      bumpSet_eq s (some k) c n⟩,
    fun s c n hn => ⟨?deviceSum, fun d => bumpDevice_deviceCount_of_ne s n, bumpDevice_setCount s c n, bumpDevice_eq s c n⟩⟩
  case setSum => rw [bumpSet_setCount_same, counter_toNat_add _ hn]
  case deviceSum => rw [bumpDevice_deviceCount_same, counter_toNat_add _ hn]

/-! ### The count of a decided outcome -/

section
variable (i : SlotId) (s : State)

/-- The decision of OK counts the transaction, its words and its length (R54). -/
theorem countOutcome_ok :
    countOutcome i .ok s =
      let k := (s.slotRoute i).counterSet
      bumpSet k (lengthBucket ((s.slot i).writeCount + (s.slot i).readCount)) 1
        (bumpSet k .wordsRead (s.slot i).readCount (bumpSet k .wordsWritten (s.slot i).writeCount (bumpSet k .doneOk 1 s))) := rfl

/-- The decision of a failure is counted once (R54). -/
theorem countOutcome_of_failure {o : TxOutcome} (ho : o ≠ .ok) :
    countOutcome i o s = bumpSet (s.slotRoute i).counterSet .doneFail 1 s := by
  rw [countOutcome, CounterBank.addOutcome, if_neg ho, bumpSet]

/-- Whatever becomes of the slot, the decision of its outcome leaves the Counter Bank with that outcome counted (R53, R54). -/
@[simp] theorem decideOutcome_counters (o : TxOutcome) : (decideOutcome i o s).counters = (countOutcome i o s).counters := by
  cases h : freedAtOnce (s.slot i) o
  · rw [decideOutcome_of_done _ h]
  · rw [decideOutcome_of_freed _ h, freeSlots_counters]

@[simp] theorem decideOutcome_setCount (o : TxOutcome) (k : SetId) (c : SetCounter) :
    (decideOutcome i o s).setCount k c = (countOutcome i o s).setCount k c := by
  rw [State.setCount, decideOutcome_counters, State.setCount]

end

/-! ### The length buckets -/

/-- No row of R151's table is one of the other counters that a decision adds to. -/
theorem bucketTable_counter_ne : ∀ row ∈ bucketTable,
    row.1 ≠ .doneOk ∧ row.1 ≠ .doneFail ∧ row.1 ≠ .wordsWritten ∧ row.1 ≠ .wordsRead := by
  decide

/-- The bucket of a length is the row of R151's table whose range holds it; the last range ends at 512. -/
theorem lengthBucket_eq_iff {words : Nat} (hw : words ≤ 512) :
    ∀ row ∈ bucketTable, lengthBucket words = row.1 ↔ row.2.1 ≤ words ∧ words ≤ row.2.2 := by
  simp only [bucketTable, List.forall_mem_cons, List.not_mem_nil, false_implies, implies_true, and_true]
  unfold lengthBucket
  split_ifs <;> simp only [true_iff, false_iff] <;> omega

section
variable {i : SlotId} {s : State} {k : SetId} (hk : (s.slotRoute i).counterSet = some k)
include hk

/-- The decision of OK adds 1 to the bucket of the slot's length and nothing to the other buckets (R151). -/
theorem countOutcome_ok_bucket {row : SetCounter × Nat × Nat} (hrow : row ∈ bucketTable) :
    (countOutcome i .ok s).setCount k row.1 =
      if lengthBucket ((s.slot i).writeCount + (s.slot i).readCount) = row.1 then s.setCount k row.1 + 1
      else s.setCount k row.1 := by
  obtain ⟨hok, -, hwritten, hread⟩ := bucketTable_counter_ne row hrow
  simp only [countOutcome_ok, hk, bumpSet_setCount, hok.symm, hwritten.symm, hread.symm, true_and, and_false, if_false]
  rfl

/-- The decision of a failure leaves every bucket (R151). -/
theorem countOutcome_failure_bucket {o : TxOutcome} (ho : o ≠ .ok) {row : SetCounter × Nat × Nat} (hrow : row ∈ bucketTable) :
    (countOutcome i o s).setCount k row.1 = s.setCount k row.1 := by
  obtain ⟨-, hfail, -, -⟩ := bucketTable_counter_ne row hrow
  rw [countOutcome_of_failure i s ho, hk, bumpSet_setCount_of_ne s 1 (.inr hfail)]

end

/-- Settles O50: a decision reaches a bucket by the count of OK alone, and that count goes to the row whose range holds the length. -/
theorem lengthBuckets : Obligations.LengthBuckets := by
  intro s i o k hk sum hsum row hrow
  rw [decideOutcome_setCount]
  by_cases ho : o = .ok
  · subst ho
    simp only [countOutcome_ok_bucket hk hrow, lengthBucket_eq_iff hsum row hrow, true_and, sum]
  · rw [countOutcome_failure_bucket hk ho hrow, if_neg (ho ·.1)]

end Sys2Proof.Machine

/-!
PROOFS. Which fields of the state each shared operation can change, said once for each as an equation; what it leaves alone follows from it
field by field.
-/
namespace Sys2Proof.Machine

section
variable (s : State)

/-! ### The Flow Controller's judgement -/

/-- A judgement touches the Flow Controller and the Event Unit alone. -/
theorem judgeFlow_eq : judgeFlow s = { s with flow := (judgeFlow s).flow, events := (judgeFlow s).events } := rfl

@[simp] theorem judgeFlow_routes : (judgeFlow s).routes = s.routes := rfl
@[simp] theorem judgeFlow_slots : (judgeFlow s).slots = s.slots := rfl
@[simp] theorem judgeFlow_queues : (judgeFlow s).queues = s.queues := rfl
@[simp] theorem judgeFlow_completion : (judgeFlow s).completion = s.completion := rfl
@[simp] theorem judgeFlow_lanes : (judgeFlow s).lanes = s.lanes := rfl
@[simp] theorem judgeFlow_freeCells : (judgeFlow s).freeCells = s.freeCells := rfl
@[simp] theorem judgeFlow_mem : (judgeFlow s).mem = s.mem := rfl
@[simp] theorem judgeFlow_trans : (judgeFlow s).trans = s.trans := rfl
@[simp] theorem judgeFlow_agent : (judgeFlow s).agent = s.agent := rfl
@[simp] theorem judgeFlow_counters : (judgeFlow s).counters = s.counters := rfl
@[simp] theorem judgeFlow_pending : (judgeFlow s).pending = s.pending := rfl

/-! ### Outcomes and retries -/

/-- A decided outcome touches the tables, the counters and, by a drain completed, the Event Unit. -/
theorem decideOutcome_eq (i : SlotId) (o : TxOutcome) :
    decideOutcome i o s =
      { s with
        routes := (decideOutcome i o s).routes, slots := (decideOutcome i o s).slots
        completion := (decideOutcome i o s).completion, freeCells := (decideOutcome i o s).freeCells
        counters := (decideOutcome i o s).counters, events := (decideOutcome i o s).events } := by
  cases h : freedAtOnce (s.slot i) o
  · rw [decideOutcome_of_done _ h]
  · rw [decideOutcome_of_freed _ h]; rfl

@[simp] theorem decideOutcome_queues (i : SlotId) (o : TxOutcome) : (decideOutcome i o s).queues = s.queues := by
  rw [decideOutcome_eq]
@[simp] theorem decideOutcome_lanes (i : SlotId) (o : TxOutcome) : (decideOutcome i o s).lanes = s.lanes := by
  rw [decideOutcome_eq]
@[simp] theorem decideOutcome_mem (i : SlotId) (o : TxOutcome) : (decideOutcome i o s).mem = s.mem := by
  rw [decideOutcome_eq]
@[simp] theorem decideOutcome_flow (i : SlotId) (o : TxOutcome) : (decideOutcome i o s).flow = s.flow := by
  rw [decideOutcome_eq]
@[simp] theorem decideOutcome_trans (i : SlotId) (o : TxOutcome) : (decideOutcome i o s).trans = s.trans := by
  rw [decideOutcome_eq]
@[simp] theorem decideOutcome_agent (i : SlotId) (o : TxOutcome) : (decideOutcome i o s).agent = s.agent := by
  rw [decideOutcome_eq]
@[simp] theorem decideOutcome_draws (i : SlotId) (o : TxOutcome) : (decideOutcome i o s).draws = s.draws := by
  rw [decideOutcome_eq]
@[simp] theorem decideOutcome_pending (i : SlotId) (o : TxOutcome) : (decideOutcome i o s).pending = s.pending := by
  rw [decideOutcome_eq]

/-- A failed attempt either returns its slot to the head of its queue or has its failure decided and judged (R82). -/
theorem retryOrDecide_cases (l : LaneId) (i : SlotId) (o : TxOutcome) :
    retryOrDecide l i o s = bumpSet (s.slotRoute i).counterSet .retries 1
      ((s.setSlot i { s.slot i with state := .queued }).setQueue l (i :: s.queue l)) ∧
        (s.slot i).attempts ≤ (s.slotRoute i).retryLimit ∧ (s.slot i).orphan = false ∨
    retryOrDecide l i o s = judgeFlow (decideOutcome i o s) := by
  unfold retryOrDecide
  dsimp only
  split
  · next h => exact .inl ⟨rfl, h⟩
  · exact .inr rfl

/-- A retry decided touches the tables, the counters, the Event Unit and the Flow Controller. -/
theorem retryOrDecide_eq (l : LaneId) (i : SlotId) (o : TxOutcome) :
    retryOrDecide l i o s =
      { s with
        routes := (retryOrDecide l i o s).routes, slots := (retryOrDecide l i o s).slots, queues := (retryOrDecide l i o s).queues
        completion := (retryOrDecide l i o s).completion, freeCells := (retryOrDecide l i o s).freeCells
        counters := (retryOrDecide l i o s).counters, events := (retryOrDecide l i o s).events
        flow := (retryOrDecide l i o s).flow } := by
  rcases retryOrDecide_cases s l i o with ⟨h, -⟩ | h
  · rw [h]; rfl
  · rw [h, judgeFlow_eq, decideOutcome_eq]

@[simp] theorem retryOrDecide_lanes (l : LaneId) (i : SlotId) (o : TxOutcome) : (retryOrDecide l i o s).lanes = s.lanes := by
  rw [retryOrDecide_eq]
@[simp] theorem retryOrDecide_mem (l : LaneId) (i : SlotId) (o : TxOutcome) : (retryOrDecide l i o s).mem = s.mem := by
  rw [retryOrDecide_eq]
@[simp] theorem retryOrDecide_receiver (l : LaneId) (i : SlotId) (o : TxOutcome) : (retryOrDecide l i o s).receiver = s.receiver := by
  rw [retryOrDecide_eq]
@[simp] theorem retryOrDecide_trans (l : LaneId) (i : SlotId) (o : TxOutcome) : (retryOrDecide l i o s).trans = s.trans := by
  rw [retryOrDecide_eq]
@[simp] theorem retryOrDecide_agent (l : LaneId) (i : SlotId) (o : TxOutcome) : (retryOrDecide l i o s).agent = s.agent := by
  rw [retryOrDecide_eq]
@[simp] theorem retryOrDecide_pending (l : LaneId) (i : SlotId) (o : TxOutcome) : (retryOrDecide l i o s).pending = s.pending := by
  rw [retryOrDecide_eq]

end
end Sys2Proof.Machine

/-!
PROOFS. Which fields of the state the lane events, Admission and the Receiver can change, said once for each shared operation as an equation.
-/
namespace Sys2Proof.Machine

section
variable (s : State)

/-! ### The lane engines -/

/-- An attempt aborted by contention, with its slot named (R79). -/
theorem contentionAbort_of_current {l : LaneId} {i : SlotId} (h : (s.lane l).current = some i) :
    contentionAbort l s =
      retryOrDecide l i .contention (setContention l (bumpSet (s.slotRoute i).counterSet .contentions 1
        (s.setLane l { (s.lane l).quit with state := .yielded }))) := by
  simp only [contentionAbort, h]

/-- A lane without a current slot has no attempt to abort. -/
theorem contentionAbort_of_none {l : LaneId} (h : (s.lane l).current = none) : contentionAbort l s = s := by
  simp only [contentionAbort, h]

/-- A contention abort touches the lanes, the tables, the counters, the Event Unit and the Flow Controller. -/
theorem contentionAbort_eq (l : LaneId) :
    contentionAbort l s =
      { s with
        lanes := (contentionAbort l s).lanes, routes := (contentionAbort l s).routes, slots := (contentionAbort l s).slots
        queues := (contentionAbort l s).queues, completion := (contentionAbort l s).completion
        freeCells := (contentionAbort l s).freeCells, counters := (contentionAbort l s).counters
        events := (contentionAbort l s).events, flow := (contentionAbort l s).flow } := by
  cases h : (s.lane l).current with
  | none => rw [contentionAbort_of_none s h]
  | some i => rw [contentionAbort_of_current s h, retryOrDecide_eq]; rfl

@[simp] theorem contentionAbort_mem (l : LaneId) : (contentionAbort l s).mem = s.mem := by
  rw [contentionAbort_eq]
@[simp] theorem contentionAbort_receiver (l : LaneId) : (contentionAbort l s).receiver = s.receiver := by
  rw [contentionAbort_eq]
@[simp] theorem contentionAbort_trans (l : LaneId) : (contentionAbort l s).trans = s.trans := by
  rw [contentionAbort_eq]
@[simp] theorem contentionAbort_agent (l : LaneId) : (contentionAbort l s).agent = s.agent := by
  rw [contentionAbort_eq]
@[simp] theorem contentionAbort_draws (l : LaneId) : (contentionAbort l s).draws = s.draws := by
  rw [contentionAbort_eq]
@[simp] theorem contentionAbort_pending (l : LaneId) : (contentionAbort l s).pending = s.pending := by
  rw [contentionAbort_eq]

/-- A lane engine that leaves GAP or IDLE under a claim is YIELDED (R78). -/
def LaneEngine.yield (e : LaneEngine) : LaneEngine := { e with state := .yielded, gapTimer := if e.state = .gap then none else e.gapTimer }

/-- A claim acts on the lane engine alone, or aborts the attempt (R78). -/
theorem claimActs_cases (l : LaneId) :
    claimActs l s = s ∧ ((s.lane l).state = .off ∨ (s.lane l).state = .yielded) ∨
    claimActs l s = s.setLane l (s.lane l).yield ∧ ((s.lane l).state = .idle ∨ (s.lane l).state = .gap) ∨
    claimActs l s = contentionAbort l s ∧ ((s.lane l).state = .readyWait ∨ (s.lane l).state = .shifting) := by
  unfold claimActs LaneEngine.yield
  cases h : (s.lane l).state <;> simp

/-- A claim that acts touches what a contention abort does. -/
theorem claimActs_eq (l : LaneId) :
    claimActs l s =
      { s with
        lanes := (claimActs l s).lanes, routes := (claimActs l s).routes, slots := (claimActs l s).slots
        queues := (claimActs l s).queues, completion := (claimActs l s).completion
        freeCells := (claimActs l s).freeCells, counters := (claimActs l s).counters
        events := (claimActs l s).events, flow := (claimActs l s).flow } := by
  rcases claimActs_cases s l with ⟨h, -⟩ | ⟨h, -⟩ | ⟨h, -⟩
  · rw [h]
  · rw [h]; rfl
  · rw [h, contentionAbort_eq]

@[simp] theorem claimActs_mem (l : LaneId) : (claimActs l s).mem = s.mem := by
  rw [claimActs_eq]
@[simp] theorem claimActs_receiver (l : LaneId) : (claimActs l s).receiver = s.receiver := by
  rw [claimActs_eq]
@[simp] theorem claimActs_trans (l : LaneId) : (claimActs l s).trans = s.trans := by
  rw [claimActs_eq]
@[simp] theorem claimActs_agent (l : LaneId) : (claimActs l s).agent = s.agent := by
  rw [claimActs_eq]
@[simp] theorem claimActs_draws (l : LaneId) : (claimActs l s).draws = s.draws := by
  rw [claimActs_eq]
@[simp] theorem claimActs_pending (l : LaneId) : (claimActs l s).pending = s.pending := by
  rw [claimActs_eq]

/-- Words captured are stored in the cells and nowhere else. -/
theorem captureUntilClaim_eq (l : LaneId) (din : List Bool) :
    captureUntilClaim l din s = { s with mem := (captureUntilClaim l din s).mem } := by
  unfold captureUntilClaim; split <;> rfl

/-- A stopped attempt leaves captured words in the cells, and draws one free value (log 2). -/
theorem strayIfShifting_eq (l : LaneId) :
    strayIfShifting l s = { s with mem := (strayIfShifting l s).mem, draws := (strayIfShifting l s).draws } := by
  unfold strayIfShifting; split <;> rfl

@[simp] theorem captureUntilClaim_routes (l : LaneId) (din : List Bool) : (captureUntilClaim l din s).routes = s.routes := by
  rw [captureUntilClaim_eq]
@[simp] theorem captureUntilClaim_slots (l : LaneId) (din : List Bool) : (captureUntilClaim l din s).slots = s.slots := by
  rw [captureUntilClaim_eq]
@[simp] theorem captureUntilClaim_queues (l : LaneId) (din : List Bool) : (captureUntilClaim l din s).queues = s.queues := by
  rw [captureUntilClaim_eq]
@[simp] theorem captureUntilClaim_completion (l : LaneId) (din : List Bool) : (captureUntilClaim l din s).completion = s.completion := by
  rw [captureUntilClaim_eq]
@[simp] theorem captureUntilClaim_lanes (l : LaneId) (din : List Bool) : (captureUntilClaim l din s).lanes = s.lanes := by
  rw [captureUntilClaim_eq]
@[simp] theorem captureUntilClaim_freeCells (l : LaneId) (din : List Bool) : (captureUntilClaim l din s).freeCells = s.freeCells := by
  rw [captureUntilClaim_eq]
@[simp] theorem captureUntilClaim_flow (l : LaneId) (din : List Bool) : (captureUntilClaim l din s).flow = s.flow := by
  rw [captureUntilClaim_eq]
@[simp] theorem captureUntilClaim_receiver (l : LaneId) (din : List Bool) : (captureUntilClaim l din s).receiver = s.receiver := by
  rw [captureUntilClaim_eq]
@[simp] theorem captureUntilClaim_trans (l : LaneId) (din : List Bool) : (captureUntilClaim l din s).trans = s.trans := by
  rw [captureUntilClaim_eq]
@[simp] theorem captureUntilClaim_agent (l : LaneId) (din : List Bool) : (captureUntilClaim l din s).agent = s.agent := by
  rw [captureUntilClaim_eq]
@[simp] theorem captureUntilClaim_counters (l : LaneId) (din : List Bool) : (captureUntilClaim l din s).counters = s.counters := by
  rw [captureUntilClaim_eq]
@[simp] theorem captureUntilClaim_events (l : LaneId) (din : List Bool) : (captureUntilClaim l din s).events = s.events := by
  rw [captureUntilClaim_eq]
@[simp] theorem captureUntilClaim_pending (l : LaneId) (din : List Bool) : (captureUntilClaim l din s).pending = s.pending := by
  rw [captureUntilClaim_eq]
@[simp] theorem strayIfShifting_routes (l : LaneId) : (strayIfShifting l s).routes = s.routes := by
  rw [strayIfShifting_eq]
@[simp] theorem strayIfShifting_slots (l : LaneId) : (strayIfShifting l s).slots = s.slots := by
  rw [strayIfShifting_eq]
@[simp] theorem strayIfShifting_queues (l : LaneId) : (strayIfShifting l s).queues = s.queues := by
  rw [strayIfShifting_eq]
@[simp] theorem strayIfShifting_completion (l : LaneId) : (strayIfShifting l s).completion = s.completion := by
  rw [strayIfShifting_eq]
@[simp] theorem strayIfShifting_lanes (l : LaneId) : (strayIfShifting l s).lanes = s.lanes := by
  rw [strayIfShifting_eq]
@[simp] theorem strayIfShifting_freeCells (l : LaneId) : (strayIfShifting l s).freeCells = s.freeCells := by
  rw [strayIfShifting_eq]
@[simp] theorem strayIfShifting_flow (l : LaneId) : (strayIfShifting l s).flow = s.flow := by
  rw [strayIfShifting_eq]
@[simp] theorem strayIfShifting_receiver (l : LaneId) : (strayIfShifting l s).receiver = s.receiver := by
  rw [strayIfShifting_eq]
@[simp] theorem strayIfShifting_trans (l : LaneId) : (strayIfShifting l s).trans = s.trans := by
  rw [strayIfShifting_eq]
@[simp] theorem strayIfShifting_agent (l : LaneId) : (strayIfShifting l s).agent = s.agent := by
  rw [strayIfShifting_eq]
@[simp] theorem strayIfShifting_counters (l : LaneId) : (strayIfShifting l s).counters = s.counters := by
  rw [strayIfShifting_eq]
@[simp] theorem strayIfShifting_events (l : LaneId) : (strayIfShifting l s).events = s.events := by
  rw [strayIfShifting_eq]
@[simp] theorem strayIfShifting_pending (l : LaneId) : (strayIfShifting l s).pending = s.pending := by
  rw [strayIfShifting_eq]

/-- The decisions of one outcome for slots one after another touch what one decision does. -/
theorem foldl_decideOutcome_eq (o : TxOutcome) (is : List SlotId) :
    is.foldl (fun t i => decideOutcome i o t) s =
      { s with
        routes := (is.foldl (fun t i => decideOutcome i o t) s).routes, slots := (is.foldl (fun t i => decideOutcome i o t) s).slots
        completion := (is.foldl (fun t i => decideOutcome i o t) s).completion
        freeCells := (is.foldl (fun t i => decideOutcome i o t) s).freeCells
        counters := (is.foldl (fun t i => decideOutcome i o t) s).counters
        events := (is.foldl (fun t i => decideOutcome i o t) s).events } := by
  induction is generalizing s with
  | nil => rfl
  | cons i is ih => rw [List.foldl_cons, ih, decideOutcome_eq]

/-- A flush of a lane leaves the Receiver, the Transmitter, the agent and the Flow Controller. -/
theorem flushLane_eq (l : LaneId) (o : TxOutcome) (e : LaneEngine) :
    flushLane l o e s =
      { s with
        lanes := s.lanes.set l e, queues := s.queues.set l []
        routes := (flushLane l o e s).routes, slots := (flushLane l o e s).slots, completion := (flushLane l o e s).completion
        freeCells := (flushLane l o e s).freeCells, counters := (flushLane l o e s).counters
        events := (flushLane l o e s).events } := by
  unfold flushLane
  dsimp only
  rw [foldl_decideOutcome_eq]
  rfl

/-- A stop and flush, judged, touches what a flush does, the cells of a stopped attempt and the Flow Controller. -/
theorem stopAndFlush_eq (l : LaneId) (o : TxOutcome) (e : LaneEngine) :
    stopAndFlush l o e s =
      { s with
        lanes := s.lanes.set l e, queues := s.queues.set l []
        routes := (stopAndFlush l o e s).routes, slots := (stopAndFlush l o e s).slots
        completion := (stopAndFlush l o e s).completion, freeCells := (stopAndFlush l o e s).freeCells
        counters := (stopAndFlush l o e s).counters, events := (stopAndFlush l o e s).events, flow := (stopAndFlush l o e s).flow
        mem := (strayIfShifting l s).mem, draws := (strayIfShifting l s).draws } := by
  unfold stopAndFlush
  rw [judgeFlow_eq, flushLane_eq]
  rw [strayIfShifting_eq]

@[simp] theorem stopAndFlush_receiver (l : LaneId) (o : TxOutcome) (e : LaneEngine) : (stopAndFlush l o e s).receiver = s.receiver := by
  rw [stopAndFlush_eq]
@[simp] theorem stopAndFlush_trans (l : LaneId) (o : TxOutcome) (e : LaneEngine) : (stopAndFlush l o e s).trans = s.trans := by
  rw [stopAndFlush_eq]
@[simp] theorem stopAndFlush_agent (l : LaneId) (o : TxOutcome) (e : LaneEngine) : (stopAndFlush l o e s).agent = s.agent := by
  rw [stopAndFlush_eq]
@[simp] theorem stopAndFlush_pending (l : LaneId) (o : TxOutcome) (e : LaneEngine) : (stopAndFlush l o e s).pending = s.pending := by
  rw [stopAndFlush_eq]

end
end Sys2Proof.Machine

/-!
PROOFS. What Admission's taking of a frame and the judging of a frame in reception can do, one inversion lemma each.
-/
namespace Sys2Proof.Machine

open Sys2Proof.Safety

section
variable (s : State)

/-! ### Records -/

/-- A record queued or dropped touches the short-response queue, or the counters and the Event Unit (R36, R44, R117). -/
theorem addRecord_eq (r : ShortRecord) :
    addRecord r s =
      { s with
        trans := { s.trans with shortQueue := (addRecord r s).trans.shortQueue }
        counters := (addRecord r s).counters, events := (addRecord r s).events } := by
  unfold addRecord; split <;> rfl

@[simp] theorem addRecord_routes (r : ShortRecord) : (addRecord r s).routes = s.routes := by
  rw [addRecord_eq]
@[simp] theorem addRecord_slots (r : ShortRecord) : (addRecord r s).slots = s.slots := by
  rw [addRecord_eq]
@[simp] theorem addRecord_queues (r : ShortRecord) : (addRecord r s).queues = s.queues := by
  rw [addRecord_eq]
@[simp] theorem addRecord_completion (r : ShortRecord) : (addRecord r s).completion = s.completion := by
  rw [addRecord_eq]
@[simp] theorem addRecord_lanes (r : ShortRecord) : (addRecord r s).lanes = s.lanes := by
  rw [addRecord_eq]
@[simp] theorem addRecord_freeCells (r : ShortRecord) : (addRecord r s).freeCells = s.freeCells := by
  rw [addRecord_eq]
@[simp] theorem addRecord_mem (r : ShortRecord) : (addRecord r s).mem = s.mem := by
  rw [addRecord_eq]
@[simp] theorem addRecord_flow (r : ShortRecord) : (addRecord r s).flow = s.flow := by
  rw [addRecord_eq]
@[simp] theorem addRecord_agent (r : ShortRecord) : (addRecord r s).agent = s.agent := by
  rw [addRecord_eq]
@[simp] theorem addRecord_draws (r : ShortRecord) : (addRecord r s).draws = s.draws := by
  rw [addRecord_eq]
@[simp] theorem addRecord_pending (r : ShortRecord) : (addRecord r s).pending = s.pending := by
  rw [addRecord_eq]
@[simp] theorem addRecord_trans_output (r : ShortRecord) : (addRecord r s).trans.output = s.trans.output := by
  rw [addRecord_eq]
@[simp] theorem addRecord_trans_inboundHold (r : ShortRecord) : (addRecord r s).trans.inboundHold = s.trans.inboundHold := by
  rw [addRecord_eq]

/-- A record joins a queue that holds fewer than 16, or the condition of its loss is set (R117). -/
theorem addRecord_cases (r : ShortRecord) :
    addRecord r s = { s with trans := { s.trans with shortQueue := s.trans.shortQueue ++ [r] } } ∧ s.trans.shortQueue.length < 16 ∨
    addRecord r s = setCondition .shortLoss (bumpDevice .shortDropped 1 s) := by
  unfold addRecord
  split
  · exact .inl ⟨rfl, ‹_›⟩
  · exact .inr rfl

/-! ### Admission -/

/-- Where a slot is found QUEUED it is one of those a CANCEL withdraws; a request that passes is admitted; anything else that Admission
takes leaves a record, or nothing (R23, R24, R40). -/
theorem judgeWaiting_cases (w : WaitingFrame) :
    judgeWaiting w s = s ∨
    (∃ r b, judgeWaiting w s = addRecord r { s with counters := b }) ∨
    (∃ k d, lookup (w.frame.labels.headD 0) s = some k ∧ judgeEntry w.frame k s = .ok d ∧ judgeWaiting w s = admitRequest w.frame d s) ∨
    (∃ i, (s.slot i).state = .queued ∧ judgeWaiting w s = withdrawSlot i s) := by
  unfold judgeWaiting
  split
  · exact .inl rfl
  split
  · unfold judgeCancel
    split
    · exact .inr (.inl ⟨_, _, rfl⟩)
    split
    · exact .inr (.inl ⟨_, _, rfl⟩)
    split
    · next h => exact .inr (.inr (.inr ⟨_, h, rfl⟩))
    · exact .inr (.inl ⟨_, _, rfl⟩)
  · unfold judgeRequest
    split
    · exact .inr (.inl ⟨_, _, rfl⟩)
    next k hk =>
    split
    · exact .inr (.inl ⟨_, _, rfl⟩)
    next d hd => exact .inr (.inr (.inl ⟨k, d, hk, hd, rfl⟩))

/-- An admission touches the tables, the cells, the counters and, by the judgement of the new counts, the Flow Controller and the Event
Unit. -/
theorem admitRequest_eq (f : InFrame) (d : Demand) :
    admitRequest f d s =
      { s with
        routes := (admitRequest f d s).routes, slots := (admitRequest f d s).slots, queues := (admitRequest f d s).queues
        freeCells := (admitRequest f d s).freeCells, mem := (admitRequest f d s).mem, draws := (admitRequest f d s).draws
        counters := (admitRequest f d s).counters, flow := (admitRequest f d s).flow, events := (admitRequest f d s).events } := rfl

/-- A withdrawal touches the tables, the counters and, by the judgement of the new occupancy, the Flow Controller and the Event Unit. -/
theorem withdrawSlot_eq (i : SlotId) :
    withdrawSlot i s =
      { s with
        routes := (withdrawSlot i s).routes, slots := (withdrawSlot i s).slots, queues := (withdrawSlot i s).queues
        completion := (withdrawSlot i s).completion, freeCells := (withdrawSlot i s).freeCells
        counters := (withdrawSlot i s).counters, flow := (withdrawSlot i s).flow, events := (withdrawSlot i s).events } := by
  unfold withdrawSlot
  dsimp only
  rw [judgeFlow_eq, decideOutcome_eq]
  rfl

/-- What Admission takes leaves the lanes, the Receiver, the agent, and the Transmitter but for its short-response queue. -/
theorem judgeWaiting_eq (w : WaitingFrame) :
    judgeWaiting w s =
      { s with
        routes := (judgeWaiting w s).routes, slots := (judgeWaiting w s).slots, queues := (judgeWaiting w s).queues
        completion := (judgeWaiting w s).completion, freeCells := (judgeWaiting w s).freeCells, mem := (judgeWaiting w s).mem
        draws := (judgeWaiting w s).draws, counters := (judgeWaiting w s).counters, flow := (judgeWaiting w s).flow
        events := (judgeWaiting w s).events, trans := { s.trans with shortQueue := (judgeWaiting w s).trans.shortQueue } } := by
  rcases judgeWaiting_cases s w with h | ⟨r, b, h⟩ | ⟨k, d, -, -, h⟩ | ⟨i, -, h⟩
  · rw [h]
  · rw [h, addRecord_eq]
  · rw [h, admitRequest_eq]
  · rw [h, withdrawSlot_eq]

/-- Admission's taking of a frame is the judging of one, with the frame gone from the list (R23). -/
theorem admitNext_cases :
    admitNext s = s ∧ s.receiver.admission = [] ∨
    ∃ w rest, s.receiver.admission = w :: rest ∧
      admitNext s = judgeWaiting w { s with receiver := { s.receiver with admission := rest } } := by
  unfold admitNext
  split
  · next h => exact .inl ⟨rfl, h⟩
  · next w rest h => exact .inr ⟨w, rest, h, rfl⟩

@[simp] theorem judgeWaiting_lanes (w : WaitingFrame) : (judgeWaiting w s).lanes = s.lanes := by
  rw [judgeWaiting_eq]
@[simp] theorem judgeWaiting_agent (w : WaitingFrame) : (judgeWaiting w s).agent = s.agent := by
  rw [judgeWaiting_eq]
@[simp] theorem judgeWaiting_pending (w : WaitingFrame) : (judgeWaiting w s).pending = s.pending := by
  rw [judgeWaiting_eq]
@[simp] theorem judgeWaiting_trans_output (w : WaitingFrame) : (judgeWaiting w s).trans.output = s.trans.output := by
  rw [judgeWaiting_eq]
@[simp] theorem judgeWaiting_trans_inboundHold (w : WaitingFrame) : (judgeWaiting w s).trans.inboundHold = s.trans.inboundHold := by
  rw [judgeWaiting_eq]
@[simp] theorem admitNext_lanes : (admitNext s).lanes = s.lanes := by
  unfold admitNext; split <;> simp
@[simp] theorem admitNext_agent : (admitNext s).agent = s.agent := by
  unfold admitNext; split <;> simp
@[simp] theorem admitNext_pending : (admitNext s).pending = s.pending := by
  unfold admitNext; split <;> simp
@[simp] theorem admitNext_trans_output : (admitNext s).trans.output = s.trans.output := by
  unfold admitNext; split <;> simp
@[simp] theorem admitNext_trans_inboundHold : (admitNext s).trans.inboundHold = s.trans.inboundHold := by
  unfold admitNext; split <;> simp
@[simp] theorem admitAll_lanes : (admitAll s).lanes = s.lanes :=
  admitAll_induction (P := fun t => t.lanes = s.lanes) (fun t ht => (admitNext_lanes t).trans ht) rfl
@[simp] theorem admitAll_agent : (admitAll s).agent = s.agent :=
  admitAll_induction (P := fun t => t.agent = s.agent) (fun t ht => (admitNext_agent t).trans ht) rfl
@[simp] theorem admitAll_pending : (admitAll s).pending = s.pending :=
  admitAll_induction (P := fun t => t.pending = s.pending) (fun t ht => (admitNext_pending t).trans ht) rfl
@[simp] theorem admitAll_trans_output : (admitAll s).trans.output = s.trans.output :=
  admitAll_induction (P := fun t => t.trans.output = s.trans.output) (fun t ht => (admitNext_trans_output t).trans ht) rfl
@[simp] theorem admitAll_trans_inboundHold : (admitAll s).trans.inboundHold = s.trans.inboundHold :=
  admitAll_induction (P := fun t => t.trans.inboundHold = s.trans.inboundHold) (fun t ht => (admitNext_trans_inboundHold t).trans ht) rfl

/-! ### The Receiver -/

/-- A field of `k` bytes holds less than 256 to the power `k` (R171). -/
theorem fieldAt_lt (bs : List Byte) (off k : Nat) : fieldAt bs off k < 256 ^ k :=
  (beNat_lt _).trans_le (Nat.pow_le_pow_right (by decide) (List.length_take_le ..))

/-- A frame judged counts, and drops the frame with a condition set or without one, or hands it on by its kind (R111 to R114). -/
theorem judgeReception_cases (r : Reception) :
    ∃ b, judgeReception r s = { s with counters := b } ∨
      (∃ c, judgeReception r s = setCondition c { s with counters := b }) ∨
      (∃ f k, judgeReception r s = joinAdmission f k { s with counters := b }) ∨
      (∃ q, s.agent.queue.length < 4 ∧
        judgeReception r s = { s with counters := b, agent := { s.agent with queue := s.agent.queue ++ [q] } }) ∨
      (∃ n, n ≤ 65535 ∧ s.agent.react = true ∧
        judgeReception r s = { s with counters := b, trans := { s.trans with inboundHold := n } }) := by
  unfold judgeReception
  split
  · exact ⟨_, .inr (.inl ⟨_, rfl⟩)⟩
  split
  · exact ⟨_, .inr (.inl ⟨_, rfl⟩)⟩
  split
  · exact ⟨_, .inr (.inl ⟨_, rfl⟩)⟩
  split
  · exact ⟨_, .inl rfl⟩
  unfold dispatch
  split
  · exact ⟨_, .inr (.inr (.inl ⟨_, _, rfl⟩))⟩
  split
  · exact ⟨_, .inr (.inr (.inl ⟨_, _, rfl⟩))⟩
  split
  · unfold mgmtArrival
    split
    · next h => exact ⟨_, .inr (.inr (.inr (.inl ⟨_, h, rfl⟩)))⟩
    · exact ⟨_, .inr (.inl ⟨_, rfl⟩)⟩
  · unfold inboundHoldArrival
    split
    · dsimp only
      split
      · next hr => exact ⟨_, .inr (.inr (.inr (.inr ⟨_, Nat.le_of_lt_succ (fieldAt_lt _ 0 2), hr, rfl⟩)))⟩
      · exact ⟨_, .inl rfl⟩
    · exact ⟨_, .inl rfl⟩

/-! ### Link down at the Transaction Table -/

/-- The counting of outcomes touches the counters alone. -/
theorem foldl_countOutcome_eq (o : TxOutcome) (is : List SlotId) :
    is.foldl (fun t i => countOutcome i o t) s = { s with counters := (is.foldl (fun t i => countOutcome i o t) s).counters } := by
  induction is generalizing s with
  | nil => rfl
  | cons i is ih => rw [List.foldl_cons, ih]; rfl

/-- The Transaction Table's part of link down touches the tables, the counters and, by drains completed, the Event Unit (R60, R61). -/
theorem tableLinkDown_eq :
    tableLinkDown s =
      { s with
        routes := (tableLinkDown s).routes, slots := (tableLinkDown s).slots, queues := Vector.replicate 8 [], completion := []
        freeCells := (tableLinkDown s).freeCells, counters := (tableLinkDown s).counters, events := (tableLinkDown s).events } := by
  unfold tableLinkDown
  dsimp only
  rw [freeSlots_eq, foldl_countOutcome_eq]
  rfl

@[simp] theorem tableLinkDown_lanes : (tableLinkDown s).lanes = s.lanes := by
  rw [tableLinkDown_eq]
@[simp] theorem tableLinkDown_mem : (tableLinkDown s).mem = s.mem := by
  rw [tableLinkDown_eq]
@[simp] theorem tableLinkDown_flow : (tableLinkDown s).flow = s.flow := by
  rw [tableLinkDown_eq]
@[simp] theorem tableLinkDown_receiver : (tableLinkDown s).receiver = s.receiver := by
  rw [tableLinkDown_eq]
@[simp] theorem tableLinkDown_trans : (tableLinkDown s).trans = s.trans := by
  rw [tableLinkDown_eq]
@[simp] theorem tableLinkDown_agent : (tableLinkDown s).agent = s.agent := by
  rw [tableLinkDown_eq]
@[simp] theorem tableLinkDown_draws : (tableLinkDown s).draws = s.draws := by
  rw [tableLinkDown_eq]
@[simp] theorem tableLinkDown_pending : (tableLinkDown s).pending = s.pending := by
  rw [tableLinkDown_eq]

end
end Sys2Proof.Machine

/-!
PROOFS. What one step can do: an inductive relation with one constructor for each way a command, or the bridge by itself, changes the state,
and the lemma that every step is one of these moves. The laws that every step keeps are proved by cases on it.
-/
namespace Sys2Proof.Machine

open Sys2Proof.Safety

/-! ### Management operations -/

/-- What an executed management operation can leave, asked by a source in a state (R129 to R148). -/
inductive Managed (src : Source) (s : State) : State → Prop
  | same : Managed src s s
  | lock (lease : Nat) : 100 ≤ lease → lease ≤ 60000 → Managed src s (grantLock src lease s)
  | unlock : Managed src s { s with agent := { s.agent with holder := none, lease := none, remaining := 0 } }
  | device (maxFrame label : Nat) (react : Bool) : 64 ≤ maxFrame ∧ maxFrame ≤ 1040 → 1 ≤ label ∧ label ≤ 4094 →
      Managed src s { s with
        agent := { s.agent with maxFrame := maxFrame, replyLabel := label, react := react }
        trans := { s.trans with inboundHold := if react then s.trans.inboundHold else 0 } }
  | write (r : RouteId) (g : RouteConfig) : (s.route r).state = .empty ∨ (s.route r).state = .closed → EntryValid g →
      (∀ k, k ≠ r → (s.route k).state ≠ .empty → (s.route k).config.label ≠ g.label) →
      Managed src s (s.setRoute r { s.route r with config := g, state := .closed })
  | opened (r : RouteId) : (s.route r).state = .closed → Managed src s (s.setRoute r { s.route r with state := .opened })
  | drained (r : RouteId) : (s.route r).state = .opened → (s.route r).inUse = 0 →
      Managed src s (setDrainDone r (s.setRoute r { s.route r with state := .closed }))
  | draining (r : RouteId) : (s.route r).state = .opened → (s.route r).inUse ≠ 0 →
      Managed src s (s.setRoute r { s.route r with state := .draining })
  | deleted (r : RouteId) : (s.route r).state = .closed → Managed src s (s.setRoute r .powerOn)
  | laneOn (l : LaneId) (watch : Bool) (gap : Nat) : (s.lane l).enabled = false →
      Managed src s (s.setLane l { s.lane l with enabled := true, claimWatch := watch, gap := gap }.enterIdle)
  | laneClaimed (l : LaneId) (gap : Nat) : (s.lane l).enabled = true → (s.lane l).claimWatch = false → (s.lane l).claimIn = true →
      Managed src s (claimActs l ((strayIfShifting l s).setLane l { s.lane l with enabled := true, claimWatch := true, gap := gap }))
  | laneUnwatched (l : LaneId) (gap : Nat) : (s.lane l).enabled = true → (s.lane l).state = .yielded →
      Managed src s (s.setLane l { s.lane l with enabled := true, claimWatch := false, gap := gap }.enterIdle)
  | laneSettings (l : LaneId) (watch : Bool) (gap : Nat) : (s.lane l).enabled = true →
      ((s.lane l).claimWatch = watch ∨ (s.lane l).claimWatch = true ∧ (s.lane l).state ≠ .yielded ∨
        (s.lane l).claimWatch = false ∧ (s.lane l).claimIn = false) →
      Managed src s (s.setLane l { s.lane l with enabled := true, claimWatch := watch, gap := gap })
  | laneOff (l : LaneId) (watch : Bool) (gap : Nat) : (s.lane l).enabled = true →
      Managed src s (stopAndFlush l .laneOff
        { (s.lane l).quit with enabled := false, claimWatch := watch, gap := gap, state := .off, clockLevel := .low } s)
  | laneOffSettings (l : LaneId) (watch : Bool) (gap : Nat) : (s.lane l).enabled = false →
      Managed src s (s.setLane l { s.lane l with claimWatch := watch, gap := gap })
  | laneReset (l : LaneId) : (s.lane l).state ≠ .off →
      Managed src s (stopAndFlush l .laneReset (s.lane l).quit.enterIdle s)
  | cleared (t : CounterTarget) : Managed src s (clearCounters t s)
  | flow (g : FlowSettings) : FlowRanges g → Managed src s (applyFlow g s)
  | events (mask : BitVec 9) (dest : Option Destination) (interval : Nat) : Managed src s (applyEvents mask dest interval s)
  | acked (named : BitVec 9) : Managed src s (judgeEvent { s with events := (acknowledge named s.events).endEvent })
  | reset : Managed src s (deviceReset s)

/-- The operations, in the order of their codes (R173). -/
def operations : List Operation :=
  [opLock, opUnlock, opReadDevice, opSetDevice, opReadRoute, opFindRoute, opWriteRoute, opOpenRoute, opDrainRoute, opDeleteRoute,
   opReadLane, opSetLane, opResetLane, opReadTransactions, opReadCounters, opSetFlow, opReadFlow, opSetEvents, opAckEvents,
   opDeviceReset]

section
variable {src : Source} {operands : List Byte} {s : State}

/-- The ranges that SET_FLOW judges are those of the flow settings (R100). -/
theorem readFlowBlock_ranges {g : FlowSettings} (h : readFlowBlock operands = some g) : FlowRanges g := by
  simp only [readFlowBlock, Option.bind_eq_bind, Option.bind_eq_some_iff] at h
  obtain ⟨m, -, d, -, h⟩ := h
  split at h
  · next hr =>
    obtain ⟨h1, h2, h3, -, h5, h6, h7, h8⟩ := hr
    cases h
    exact ⟨h1, h2, h3, h6, h5, Nat.pos_of_ne_zero h7, Nat.pos_of_ne_zero h8⟩
  · cases h

theorem runLock_managed : Managed src s (runLock src operands s).state := by
  unfold runLock
  dsimp only
  split
  · exact .same
  · next h =>
    split
    · split
      · exact .lock _ (by omega) (by omega)
      · exact .same
    · exact .lock _ (by omega) (by omega)

theorem runUnlock_managed : Managed src s (runUnlock src operands s).state := by
  unfold runUnlock
  split
  · exact .unlock
  · exact .same

theorem runSetDevice_managed : Managed src s (runSetDevice src operands s).state := by
  unfold runSetDevice
  dsimp only
  split
  · exact .same
  · split
    · exact .same
    · exact .device _ _ _ (by omega) (by omega)

theorem runWriteRoute_managed : Managed src s (runWriteRoute src operands s).state := by
  unfold runWriteRoute
  split
  · exact .same
  split
  · exact .same
  split
  · exact .same
  split
  · exact .same
  split
  · exact .same
  next r _ _ g _ hv hst hl =>
  refine .write r g (by tauto) ((entryOk_iff g).1 (not_not.1 hv)) fun k hk he hlab => hl (labelTaken_iff.2 ⟨k, hk, he, hlab⟩)

/-- An operation on the state of an entry leaves what its change does, if it makes one (R139). -/
theorem runOnEntry_managed {change : RouteId → State → Option State}
    (hc : ∀ r t, change r s = some t → Managed src s t) : Managed src s (runOnEntry change operands s).state := by
  unfold runOnEntry
  split
  · exact .same
  split
  · exact .same
  · exact hc _ _ ‹_›

theorem openEntry_managed (r : RouteId) (t : State) (h : openEntry r s = some t) : Managed src s t := by
  unfold openEntry at h
  split at h <;> cases h
  exact .opened r ‹_›

theorem drainEntry_managed (r : RouteId) (t : State) (h : drainEntry r s = some t) : Managed src s t := by
  unfold drainEntry at h
  split at h
  · split at h <;> cases h
    · exact .drained r ‹_› ‹_›
    · exact .draining r ‹_› ‹_›
  · cases h

theorem deleteEntry_managed (r : RouteId) (t : State) (h : deleteEntry r s = some t) : Managed src s t := by
  unfold deleteEntry at h
  split at h <;> cases h
  exact .deleted r ‹_›

theorem enableLane_managed (l : LaneId) (watch : Bool) (gap : Nat) : Managed src s (enableLane l watch gap s) := by
  unfold enableLane
  dsimp only
  split
  · exact .laneOn l watch gap ‹_›
  next he =>
  have he : (s.lane l).enabled = true := by simpa using he
  split
  · next h =>
    obtain ⟨hw, rfl, hi⟩ := h
    exact .laneClaimed l gap he hw hi
  split
  · next h =>
    obtain ⟨-, rfl, hy⟩ := h
    exact .laneUnwatched l gap he hy
  · next h1 h2 =>
    refine .laneSettings l watch gap he ?_
    cases hw : (s.lane l).claimWatch <;> cases watch <;> simp_all

theorem disableLane_managed (l : LaneId) (watch : Bool) (gap : Nat) : Managed src s (disableLane l watch gap s) := by
  unfold disableLane
  dsimp only
  split
  · exact .laneOff l watch gap ‹_›
  · next h => exact .laneOffSettings l watch gap (by simpa using h)

theorem runSetLane_managed : Managed src s (runSetLane src operands s).state := by
  unfold runSetLane
  split
  · exact .same
  · dsimp only [doneWith]
    split
    · exact enableLane_managed ..
    · exact disableLane_managed ..
  · exact .same

theorem runResetLane_managed : Managed src s (runResetLane src operands s).state := by
  unfold runResetLane
  split
  · exact .same
  · dsimp only [doneWith, resetLaneEngine]
    split
    · exact .same
    · exact .laneReset _ ‹_›

theorem runReadCounters_managed : Managed src s (runReadCounters src operands s).state := by
  unfold runReadCounters
  split
  · exact .same
  · exact .same
  · dsimp only [doneWith]
    split
    · exact .cleared _
    · exact .same

theorem runSetFlow_managed : Managed src s (runSetFlow src operands s).state := by
  unfold runSetFlow
  split
  · exact .same
  · exact .flow _ (readFlowBlock_ranges ‹_›)

theorem runSetEvents_managed : Managed src s (runSetEvents src operands s).state := by
  unfold runSetEvents
  split
  · exact .same
  split
  · exact .same
  · exact .events ..

theorem runAckEvents_managed : Managed src s (runAckEvents src operands s).state := by
  unfold runAckEvents
  split
  · exact .same
  split
  · exact .same
  split
  · exact .same
  split
  · exact .same
  · exact .acked _

theorem runReadRoute_state : (runReadRoute src operands s).state = s := by
  unfold runReadRoute; split <;> rfl

theorem runFindRoute_state : (runFindRoute src operands s).state = s := by
  unfold runFindRoute; split
  · rfl
  · split <;> rfl

theorem runReadLane_state : (runReadLane src operands s).state = s := by
  unfold runReadLane; split <;> rfl

/-- Every operation, executed, leaves one of the results of `Managed`. -/
theorem run_managed : ∀ op ∈ operations, Managed src s (op.run src operands s).state := by
  simp only [operations, List.forall_mem_cons, List.not_mem_nil, false_implies, implies_true, and_true]
  refine ⟨runLock_managed, runUnlock_managed (operands := operands), .same, runSetDevice_managed, ?readRoute, ?findRoute,
    runWriteRoute_managed, runOnEntry_managed openEntry_managed, runOnEntry_managed drainEntry_managed,
    runOnEntry_managed deleteEntry_managed, ?readLane, runSetLane_managed, runResetLane_managed, .same, runReadCounters_managed,
    runSetFlow_managed, .same, runSetEvents_managed, runAckEvents_managed, .reset⟩
  case readRoute => exact runReadRoute_state (src := src) (operands := operands) ▸ .same
  case findRoute => exact runFindRoute_state (src := src) (operands := operands) ▸ .same
  case readLane => exact runReadLane_state (src := src) (operands := operands) ▸ .same

end

/-! ### Moves -/

/-- The link-up event (R108). -/
def linkUpState (s : State) : State :=
  flowLinkUp (setCondition .linkRestored { s with receiver := { s.receiver with link := .up, syncTimer := none } })

/-- What the Transaction Table finds at link down: the link DOWN, LINK_DOWNS counted, the Receiver, the Transmitter and the agent done with
their parts (R109). -/
def linkDownStart (s : State) : State :=
  bumpDevice .linkDowns 1
    { s with
      receiver := receiverLinkDown s.receiver
      trans := transmitterLinkDown s.resetLine s.trans
      agent := agentLinkDown s.agent }

/-- The link-down event (R109). -/
def linkDownState (s : State) : State :=
  let u := flowLinkDown (tableLinkDown (linkDownStart s))
  { u with events := u.events.endEvent.unreport }

/-! ### A device reset, field by field -/

section
variable (s : State)

theorem deviceReset_eq :
    deviceReset s =
      { State.reset with
        lanes := resetLanes s
        mem := ((List.finRange 8).foldl (fun t l => strayIfShifting l t) s).mem
        receiver := s.receiver
        trans := { Transmitter.powerOn with lastMark := (s.trans.cutOff s.resetLine).lastMark }
        resetLine := s.resetLine
        draws := ((List.finRange 8).foldl (fun t l => strayIfShifting l t) s).draws
        pending := s.pending } := by
  simp only [deviceReset]

@[simp] theorem deviceReset_mem : (deviceReset s).mem = ((List.finRange 8).foldl (fun t l => strayIfShifting l t) s).mem := by
  rw [deviceReset_eq]
@[simp] theorem deviceReset_route (r : RouteId) : (deviceReset s).route r = RouteEntry.powerOn := by
  rw [deviceReset_eq]; exact State.reset_route r
@[simp] theorem deviceReset_slot (i : SlotId) : (deviceReset s).slot i = Slot.freed := by
  rw [deviceReset_eq]; exact State.reset_slot i
@[simp] theorem deviceReset_queue (l : LaneId) : (deviceReset s).queue l = [] := by
  rw [deviceReset_eq]; exact State.reset_queue l
@[simp] theorem deviceReset_lane (l : LaneId) :
    (deviceReset s).lane l = { LaneEngine.powerOn with readyIn := (s.lane l).readyIn, claimIn := (s.lane l).claimIn } := by
  rw [deviceReset_eq]; simp only [State.lane, resetLanes, Fin.getElem_fin, Vector.getElem_map]
@[simp] theorem deviceReset_completion : (deviceReset s).completion = [] := by
  rw [deviceReset_eq]; rfl
@[simp] theorem deviceReset_freeCells : (deviceReset s).freeCells = 1024 := by
  rw [deviceReset_eq]; rfl
@[simp] theorem deviceReset_flow : (deviceReset s).flow = .powerOn := by
  rw [deviceReset_eq]; rfl
@[simp] theorem deviceReset_receiver : (deviceReset s).receiver = s.receiver := by
  rw [deviceReset_eq]
@[simp] theorem deviceReset_trans :
    (deviceReset s).trans = { Transmitter.powerOn with lastMark := (s.trans.cutOff s.resetLine).lastMark } := by
  rw [deviceReset_eq]
@[simp] theorem deviceReset_agent : (deviceReset s).agent = .powerOn := by
  rw [deviceReset_eq]; rfl
@[simp] theorem deviceReset_events : (deviceReset s).events = .powerOn := by
  rw [deviceReset_eq]; rfl

end

/-! ### Moves, the link events apart -/

/-- Link down touches every block but the lanes, the cells and the Time Base. -/
theorem linkDownState_eq (s : State) :
    linkDownState s =
      { s with
        routes := (linkDownState s).routes, slots := (linkDownState s).slots, queues := Vector.replicate 8 [], completion := []
        freeCells := (linkDownState s).freeCells, counters := (linkDownState s).counters, events := (linkDownState s).events
        flow := (linkDownState s).flow, receiver := receiverLinkDown s.receiver
        trans := transmitterLinkDown s.resetLine s.trans, agent := agentLinkDown s.agent } := by
  unfold linkDownState flowLinkDown judgeLevels
  dsimp only
  rw [tableLinkDown_eq]
  rfl

/-- What one command can do to the state, and where the bridge may be idle, what one microsecond does. -/
inductive Move (idle : Prop) (s : State) : State → Prop
  | stay : Move idle s s
  | tick : idle → Move idle s (tick s)
  | powerOn : Move idle s (powerOn s)
  | resetLine : Move idle s { s with resetLine := true, receiver := { s.receiver with inSync := false, syncTimer := none, reception := none } }
  | syncFound (timer : Option Nat) : Move idle s { s with receiver := { s.receiver with inSync := true, syncTimer := timer } }
  | syncLost (timer : Option Nat) :
      Move idle s { s with receiver := { s.receiver with inSync := false, syncTimer := timer, reception := none } }
  | linkUp : s.receiver.link = .down → Move idle s (linkUpState s)
  | linkDown : s.receiver.link = .up → Move idle s (linkDownState s)
  | frameBegun : s.receiver.link = .up ∨ s.receiver.reception.isSome = true → Move idle s (beginFrame s)
  | frameDropped : Move idle s { s with receiver := { s.receiver with reception := none } }
  | frameTaken (r r' : Reception) : s.receiver.reception = some r → Move idle s (judgeReception r' (endReception (admitAll s)))
  | admitted : Move idle s (admitNext s)
  | attempt (l : LaneId) (i : SlotId) (rest : List SlotId) (ready : Bool) : (s.lane l).state = .idle → (s.lane l).claimed = false →
      s.queue l = i :: rest →
      Move idle s (((s.setSlot i { s.slot i with state := .active, attempts := (s.slot i).attempts + 1 }).setQueue l rest).setLane l
        ((s.lane l).start i (s.slotRoute i) ready))
  | readyInput (l : LaneId) : Move idle s (s.setLane l { s.lane l with readyIn := true })
  | readyStart (l : LaneId) (i : SlotId) : (s.lane l).state = .readyWait → (s.lane l).current = some i →
      Move idle s (s.setLane l
        { s.lane l with readyIn := true, readyTimer := none, state := .shifting, selectsOut := (s.slotRoute i).selects })
  | readyTimeout (l : LaneId) (i : SlotId) : (s.lane l).state = .readyWait → (s.lane l).current = some i →
      Move idle s (retryOrDecide l i .readyTimeout (setReadyTimeout l
        (bumpSet (s.slotRoute i).counterSet .readyTimeouts 1 (s.setLane l (s.lane l).quit.enterGap))))
  | lastWord (l : LaneId) (i : SlotId) (din : List Bool) : (s.lane l).state = .shifting → (s.lane l).current = some i →
      Move idle s (judgeFlow (decideOutcome i .ok
        ((storeCaptured i din (capturedWords (s.slot i)) s).setLane l (s.lane l).quit.enterGap)))
  | gapEnd (l : LaneId) : (s.lane l).state = .gap → Move idle s (s.setLane l { s.lane l with gapTimer := none }.enterIdle)
  | claimInput (l : LaneId) : (s.lane l).claimWatch = false → Move idle s (s.setLane l { s.lane l with claimIn := true })
  | claim (l : LaneId) (din : List Bool) : (s.lane l).claimWatch = true →
      Move idle s (claimActs l (captureUntilClaim l din (s.setLane l { s.lane l with claimIn := true })))
  | claimEnd (l : LaneId) : (s.lane l).state = .yielded → Move idle s (s.setLane l { s.lane l with claimIn := false }.enterIdle)
  | claimReleased (l : LaneId) : (s.lane l).state ≠ .yielded → Move idle s (s.setLane l { s.lane l with claimIn := false })
  | refresh : s.flow.refreshTimer.isSome = true → s.flow.state = .holding →
      Move idle s { s with flow := (s.flow.requestHold s.receiver.link).startRefresh s.receiver.link }
  | holdEnd : Move idle s { s with trans := { s.trans with inboundHold := 0 } }
  | leaseEnd : Move idle s (setCondition .lockExpired { s with agent := { s.agent with holder := none, lease := none, remaining := 0 } })
  | repeatDue : s.events.state = .outstanding → Move idle s { s with events := { s.events with repeatTimer := none, request := true } }
  | granted (c : Choice) : s.receiver.link = .up → s.trans.output = none → chooseRequester s = some c → Move idle s (grant c s)
  | frameEnd (f : Sending) : s.trans.output = some f →
      Move idle s (completeRequester f.requester
        (bumpDevice .framesSent 1 { s with trans := { s.trans with output := none, lastMark := .stop } }))
  | managed (q : MgmtRequest) (rest : List MgmtRequest) (u v : State) (r : MgmtResponse) : s.agent.queue = q :: rest →
      Managed q.source (taken s rest) u → v = u ∨ v = restartLease q.source u → Move idle s (placeResponse r v)

section
variable {s : State} {idle : Prop}

/-- The lock check answers without a change (R128). -/
theorem lockCheck_state {src : Source} {a : OpReply} (h : lockCheck src s = some a) : a.state = s := by
  unfold lockCheck at h
  split at h
  · cases h; rfl
  · split at h <;> cases h
    rfl

/-- The checks of R127 answer without a change, or the operation is executed. -/
theorem judgeOperation_managed {op : Operation} (hop : op ∈ operations) (src : Source) (body : List Byte) :
    Managed src s (judgeOperation op src body s).state := by
  unfold judgeOperation
  dsimp only
  split
  · exact .same
  split
  · split
    · next h => rw [lockCheck_state h]; exact .same
    · exact run_managed op hop
  · exact run_managed op hop

/-- The serving of an operation is the taking of a request and what the operation leaves, or nothing (R126, R127). -/
theorem serve_move {op : Operation} (hop : op ∈ operations) : Move idle s (serve op s) := by
  unfold serve canTake
  split
  · exact .stay
  next q rest htake =>
  split at htake <;> cases htake
  next hq =>
  split
  · refine .managed q rest _ _ _ hq (judgeOperation_managed (s := taken s rest) hop q.source q.body) ?_
    unfold afterLease
    split
    · exact .inr rfl
    · exact .inl rfl
  · exact .stay

/-- A request that names no operation is taken and answered (R127). -/
theorem badOperation_move {t : State} (h : exec .mgmtBadOperation s = .next t) : Move idle s t := by
  obtain rfl := Host.Outcome.next.inj h
  unfold canTake
  split
  · exact .stay
  next q rest htake =>
  split at htake <;> cases htake
  next hq =>
  split
  · exact .managed q rest _ _ _ hq .same (.inl rfl)
  · exact .stay

/-- REQUEST and CANCEL take the frame at the head of the list, when it is of their kind (R23). -/
theorem request_move {t : State} (h : exec .request s = .next t ∨ exec .cancel s = .next t) : Move idle s t := by
  cases ha : s.receiver.admission with
  | nil =>
    rcases h with h | h <;> obtain rfl := Host.Outcome.next.inj h
    all_goals simp only [takeWaiting, ha]; exact .stay
  | cons w rest =>
    have hx := exec_admitNext ha
    cases hw : w.isCancel <;> rw [hw] at hx
    · rcases h with h | h
      · obtain rfl := Host.Outcome.next.inj (hx.symm.trans h); exact .admitted
      · obtain rfl := Host.Outcome.next.inj h
        simp only [takeWaiting, ha, hw]; exact .stay
    · rcases h with h | h
      · obtain rfl := Host.Outcome.next.inj h
        simp only [takeWaiting, ha, hw]; exact .stay
      · obtain rfl := Host.Outcome.next.inj (hx.symm.trans h); exact .admitted

/-- A start delimiter, a second one or the abandonment of a frame begins a frame or drops one (R110). -/
theorem reception_move {t : State}
    (h : exec .startDelimiter s = .next t ∨ ∃ cause, exec (.frameAbandoned cause) s = .next t) : Move idle s t := by
  rcases h with h | ⟨cause, h⟩ <;> obtain rfl := Host.Outcome.next.inj h
  · split
    · next hc => exact .frameBegun (.inl hc.1)
    · exact .stay
  · split
    · exact .stay
    · next hr =>
      cases cause
      · exact .frameDropped
      · exact .frameDropped
      · exact .frameBegun (.inr (by rw [hr]; rfl))

/-- A lane's own event moves the lane, or does not arise (R66 to R80). -/
theorem lane_move {t : State} {l : LaneId} {c : Instr} (h : exec c s = .next t)
    (hc : (∃ ready, c = .laneStartAttempt l ready) ∨ c = .readyAssert l ∨ c = .readyTimerExpiry l ∨ (∃ din, c = .endOfLastWord l din) ∨
      c = .gapTimerExpiry l ∨ (∃ din, c = .claimAssert l din) ∨ c = .claimRelease l) : Move idle s t := by
  rcases hc with ⟨ready, rfl⟩ | rfl | rfl | ⟨din, rfl⟩ | rfl | ⟨din, rfl⟩ | rfl <;> obtain rfl := Host.Outcome.next.inj h
  case inl =>
    split
    · next hs =>
      simp only [canStart, Bool.and_eq_true, beq_iff_eq, Bool.not_eq_true'] at hs
      split
      · exact .stay
      · next hq => exact .attempt l _ _ ready hs.1.1 hs.2 hq
    · exact .stay
  case inr.inl =>
    split
    · next hs hi => exact .readyStart l _ hs hi
    · exact .readyInput l
  case inr.inr.inl =>
    split
    · next hs hi _ => exact .readyTimeout l _ hs hi
    · exact .stay
  case inr.inr.inr.inl =>
    split
    · next hs hi => exact .lastWord l _ din hs hi
    · exact .stay
  case inr.inr.inr.inr.inl =>
    split
    · next hs _ => exact .gapEnd l hs
    · exact .stay
  case inr.inr.inr.inr.inr.inl =>
    split
    · next hw => exact .claim l din hw
    · next hw => exact .claimInput l (by simpa using hw)
  case inr.inr.inr.inr.inr.inr =>
    dsimp only
    split
    · next hy => exact .claimEnd l hy
    · next hy => exact .claimReleased l hy

/-- Every command is a move. -/
theorem exec_move {c : Instr} {t : State} (h : exec c s = .next t) : Move idle s t := by
  cases c
  case powerOn => obtain rfl := Host.Outcome.next.inj h; exact .powerOn
  case resetLineAsserted => obtain rfl := Host.Outcome.next.inj h; exact .resetLine
  case syncFound =>
    obtain rfl := Host.Outcome.next.inj h
    split
    · exact .stay
    · exact .syncFound _
  case syncLost =>
    obtain rfl := Host.Outcome.next.inj h
    split
    · exact .syncLost _
    · exact .stay
  case linkUp =>
    obtain rfl := Host.Outcome.next.inj h
    split
    · next hu => exact .linkUp (by simp only [linkUpArises, Bool.and_eq_true, beq_iff_eq] at hu; exact hu.1.1)
    · exact .stay
  case linkDown =>
    obtain rfl := Host.Outcome.next.inj h
    split
    · next hd => exact .linkDown (by simp only [linkDownArises, Bool.and_eq_true, beq_iff_eq] at hd; exact hd.1.1)
    · exact .stay
  case frameTakenWhole bytes =>
    obtain rfl := Host.Outcome.next.inj h
    split
    · exact .stay
    · next hr => exact .frameTaken _ _ hr
  case request => exact request_move (.inl h)
  case cancel => exact request_move (.inr h)
  case startDelimiter => exact reception_move (.inl h)
  case frameAbandoned cause => exact reception_move (.inr ⟨cause, h⟩)
  case laneStartAttempt l ready => exact lane_move (l := l) h (by simp)
  case readyAssert l => exact lane_move (l := l) h (by simp)
  case readyTimerExpiry l => exact lane_move (l := l) h (by simp)
  case endOfLastWord l din => exact lane_move (l := l) h (by simp)
  case gapTimerExpiry l => exact lane_move (l := l) h (by simp)
  case claimAssert l din => exact lane_move (l := l) h (by simp)
  case claimRelease l => exact lane_move (l := l) h (by simp)
  case refreshTimerExpiry =>
    obtain rfl := Host.Outcome.next.inj h
    split
    · next ht hs => exact .refresh (by rw [ht]; rfl) hs
    · exact .stay
  case inboundHoldExpiry => obtain rfl := Host.Outcome.next.inj h; exact .holdEnd
  case leaseExpiry =>
    obtain rfl := Host.Outcome.next.inj h
    split
    · exact .leaseEnd
    · exact .stay
  case repeatTimerExpiry =>
    obtain rfl := Host.Outcome.next.inj h
    split
    · next hs => exact .repeatDue hs
    · exact .stay
  case outputGrant =>
    obtain rfl := Host.Outcome.next.inj h
    split
    · next hf =>
      simp only [outputFree, Bool.and_eq_true, beq_iff_eq, Option.isNone_iff_eq_none] at hf
      split
      · exact .stay
      · next hc => exact .granted _ hf.1.1 hf.1.2 hc
    · exact .stay
  case frameEnd =>
    obtain rfl := Host.Outcome.next.inj h
    split
    · exact .stay
    · next hf =>
      split
      · exact .stay
      · exact .frameEnd _ hf
  case mgmtBadOperation => exact badOperation_move h
  all_goals
    obtain rfl := Host.Outcome.next.inj h
    exact serve_move (by simp [operations])

end

/-- Every step is a move, from the state with another queue of commands. -/
theorem step_move {s t : State} (h : step s = .next t) : ∃ p u, Move True { s with pending := p } u ∧ ∃ p', t = { u with pending := p' } := by
  unfold step at h
  split at h
  · next hp =>
    obtain rfl := Host.Outcome.next.inj h
    unfold idle
    split
    · exact ⟨_, _, .stay, _, rfl⟩
    · exact ⟨[], _, .tick trivial, _, by rw [← hp]⟩
  · exact ⟨_, _, exec_move h, _, rfl⟩

/-- What does not depend on the queue of commands and is kept by every move is kept by every step. -/
theorem step_keeps {P Q : State → Prop} (hP : ∀ s p, P s → P { s with pending := p }) (hQ : ∀ s p, Q s → Q { s with pending := p })
    (hmove : ∀ s t, P s → Move True s t → Q t) {s t : State} (hs : P s) (h : step s = .next t) : Q t := by
  obtain ⟨p, u, hm, p', rfl⟩ := step_move h
  exact hQ _ _ (hmove _ _ (hP _ _ hs) hm)

end Sys2Proof.Machine

/-!
PROOFS. The law of the cell memory: bytes enter it by `storeBytes` alone, which keeps the canonical form, and from it O52.
-/
namespace Sys2Proof.Machine

open Sys2Proof.Safety

section
variable {s : State}

theorem captureUntilClaim_memLaw (l : LaneId) (din : List Bool) (h : MemLaw s) : MemLaw (captureUntilClaim l din s) := by
  unfold captureUntilClaim
  split
  · exact storeBytes_wf _ _ _ h
  · exact h

theorem strayIfShifting_memLaw (l : LaneId) (h : MemLaw s) : MemLaw (strayIfShifting l s) := by
  unfold strayIfShifting
  split
  · exact storeBytes_wf _ _ _ h
  · exact h

theorem stopAndFlush_memLaw (l : LaneId) (o : TxOutcome) (e : LaneEngine) (h : MemLaw s) : MemLaw (stopAndFlush l o e s) := by
  rw [stopAndFlush_eq]
  exact strayIfShifting_memLaw l h

theorem claimActs_memLaw (l : LaneId) (h : MemLaw s) : MemLaw (claimActs l s) := by
  rw [claimActs_eq]
  exact h

/-- A device reset leaves the bytes of the cells but for captured words (R147, log 5). -/
theorem deviceReset_memLaw (h : MemLaw s) : MemLaw (deviceReset s) := by
  have hf : MemLaw ((List.finRange 8).foldl (fun t l => strayIfShifting l t) s) :=
    List.foldlRecOn (motive := MemLaw) _ _ h fun _ ht l _ => strayIfShifting_memLaw l ht
  rw [MemLaw, deviceReset_mem]
  exact hf

theorem admitNext_memLaw (h : MemLaw s) : MemLaw (admitNext s) := by
  rcases admitNext_cases s with ⟨e, -⟩ | ⟨w, rest, -, e⟩
  · rw [e]; exact h
  rw [e]
  rcases judgeWaiting_cases _ w with e | ⟨r, b, e⟩ | ⟨k, d, -, -, e⟩ | ⟨i, -, e⟩ <;> rw [e]
  · exact h
  · rw [addRecord_eq]; exact h
  · exact storeBytes_wf _ _ _ h
  · rw [withdrawSlot_eq]; exact h

theorem judgeReception_mem (r : Reception) : (judgeReception r s).mem = s.mem := by
  obtain ⟨b, e | ⟨c, e⟩ | ⟨f, k, e⟩ | ⟨q, -, e⟩ | ⟨n, -, -, e⟩⟩ := judgeReception_cases s r <;> rw [e] <;> rfl

theorem grant_mem (c : Choice) : (grant c s).mem = s.mem := by
  cases c <;> unfold grant <;> dsimp only <;> split <;> rfl

theorem completeRequester_mem (q : Requester) : (completeRequester q s).mem = s.mem := by
  cases q <;> unfold completeRequester
  case event => dsimp only; split <;> rfl
  case slot => simp
  all_goals rfl

theorem managed_memLaw {src : Source} {u : State} (h : MemLaw s) (hm : Managed src s u) : MemLaw u := by
  cases hm
  case laneClaimed l gap _ _ _ => exact claimActs_memLaw l (strayIfShifting_memLaw l h)
  case laneOff l _ _ _ => exact stopAndFlush_memLaw l _ _ h
  case laneReset l _ => exact stopAndFlush_memLaw l _ _ h
  case cleared t => cases t <;> exact h
  case reset => exact deviceReset_memLaw h
  all_goals exact h

theorem move_memLaw {t : State} (h : MemLaw s) (hm : Move True s t) : MemLaw t := by
  cases hm
  case powerOn => exact ⟨List.Pairwise.nil, by simp [powerOn, State.reset]⟩
  case linkDown => rw [linkDownState_eq]; exact h
  case frameTaken r r' _ =>
    rw [MemLaw, judgeReception_mem]
    exact admitAll_induction (P := MemLaw) (fun _ => admitNext_memLaw) h
  case admitted => exact admitNext_memLaw h
  case readyTimeout => rw [MemLaw, retryOrDecide_mem]; exact h
  case lastWord => rw [MemLaw, judgeFlow_mem, decideOutcome_mem]; exact storeBytes_wf _ _ _ h
  case claim l din _ => exact claimActs_memLaw l (captureUntilClaim_memLaw l din h)
  case granted c _ _ _ => rw [MemLaw, grant_mem]; exact h
  case frameEnd f _ => rw [MemLaw, completeRequester_mem]; exact h
  case managed q rest u v r _ hm hv =>
    have hu : MemLaw u := managed_memLaw (s := taken s rest) h hm
    rcases hv with rfl | rfl
    · exact hu
    · unfold restartLease
      split <;> exact hu
  all_goals exact h

end

/-- Settles O52: each move stores bytes with `storeBytes`, empties the memory or leaves it. -/
theorem memoryLawKept : Obligations.MemoryLawKept :=
  fun _ _ hs h => step_keeps (P := MemLaw) (fun _ _ h => h) (fun _ _ h => h) (fun _ _ => move_memLaw) hs h

end Sys2Proof.Machine

/-!
PROOFS. The law of label uniqueness (R8): the freeing of slots and an admission leave every entry's configuration and whether it is EMPTY, so
that the operations on entries alone can touch it; and from it O53.
-/
namespace Sys2Proof.Machine

open Sys2Proof.Safety

/-- Every entry keeps its configuration, and is EMPTY after as it was before. -/
def EntriesStand (s t : State) : Prop :=
  ∀ r, (t.route r).config = (s.route r).config ∧ ((t.route r).state = .empty ↔ (s.route r).state = .empty)

section
variable {s t u : State}

theorem EntriesStand.of_routes (h : t.routes = s.routes) : EntriesStand s t := fun r => by simp [State.route, h]

theorem EntriesStand.refl : EntriesStand s s := .of_routes rfl

theorem EntriesStand.trans (h : EntriesStand s t) (h' : EntriesStand t u) : EntriesStand s u := fun r =>
  ⟨(h' r).1.trans (h r).1, (h' r).2.trans (h r).2⟩

/-- Label uniqueness speaks of the configurations and of which entries are EMPTY alone. -/
theorem EntriesStand.labelLaw (h : EntriesStand s t) (hs : LabelLaw s) : LabelLaw t := by
  obtain ⟨hrange, huniq⟩ := hs
  refine ⟨fun r hr => ?_, fun r q hr hq hl => huniq r q ?_ ?_ ?_⟩
  · rw [(h r).1]; exact hrange r (mt (h r).2.2 hr)
  · exact mt (h r).2.2 hr
  · exact mt (h q).2.2 hq
  · rwa [(h r).1, (h q).1] at hl

/-! ### The operations that touch entries in use -/

/-- A release leaves an entry other than EMPTY as such (R17, R18). -/
theorem RouteEntry.release_state_empty (e : RouteEntry) (n : Nat) : (e.release n).state = .empty ↔ e.state = .empty := by
  unfold RouteEntry.release RouteEntry.drains
  by_cases h : e.state = .draining
  · simp only [h]; split <;> simp
  · simp [h]

theorem freeSlots_entries (is : List SlotId) (s : State) : EntriesStand s (freeSlots is s) := fun r => by
  rw [freeSlots_route]
  exact ⟨rfl, RouteEntry.release_state_empty _ _⟩

theorem EntriesStand.judgeFlow (h : EntriesStand s t) : EntriesStand s (judgeFlow t) := h.trans (.of_routes (judgeFlow_routes t))

theorem decideOutcome_entries (i : SlotId) (o : TxOutcome) (s : State) : EntriesStand s (decideOutcome i o s) := by
  cases h : freedAtOnce (s.slot i) o
  · rw [decideOutcome_of_done _ h]; exact .refl
  · rw [decideOutcome_of_freed _ h]; exact freeSlots_entries _ (countOutcome i o s)

theorem foldl_decideOutcome_entries (o : TxOutcome) (is : List SlotId) (s : State) :
    EntriesStand s (is.foldl (fun t i => decideOutcome i o t) s) := by
  induction is generalizing s with
  | nil => exact .refl
  | cons i is ih => exact (decideOutcome_entries i o s).trans (ih _)

theorem retryOrDecide_entries (l : LaneId) (i : SlotId) (o : TxOutcome) (s : State) : EntriesStand s (retryOrDecide l i o s) := by
  rcases retryOrDecide_cases s l i o with ⟨h, -⟩ | h <;> rw [h]
  · exact .refl
  · exact (decideOutcome_entries i o s).judgeFlow

theorem claimActs_entries (l : LaneId) (s : State) : EntriesStand s (claimActs l s) := by
  rcases claimActs_cases s l with ⟨h, -⟩ | ⟨h, -⟩ | ⟨h, -⟩ <;> rw [h]
  · exact .refl
  · exact .refl
  · cases hi : (s.lane l).current with
    | none => rw [contentionAbort_of_none s hi]; exact .refl
    | some i => rw [contentionAbort_of_current s hi]; exact retryOrDecide_entries l i _ _

theorem stopAndFlush_entries (l : LaneId) (o : TxOutcome) (e : LaneEngine) (s : State) : EntriesStand s (stopAndFlush l o e s) := by
  unfold stopAndFlush flushLane
  exact (EntriesStand.trans (.of_routes (by simp)) (foldl_decideOutcome_entries o _ _)).judgeFlow

theorem tableLinkDown_entries (s : State) : EntriesStand s (tableLinkDown s) :=
  EntriesStand.trans (.of_routes (by rw [foldl_countOutcome_eq]; rfl)) (freeSlots_entries _ _)

theorem admitRequest_route (f : InFrame) (d : Demand) (s : State) (r : RouteId) :
    (admitRequest f d s).route r = if d.route = r then { s.route d.route with inUse := (s.route d.route).inUse + 1 } else s.route r :=
  State.setRoute_route s d.route { s.route d.route with inUse := (s.route d.route).inUse + 1 } r

theorem admitRequest_entries (f : InFrame) (d : Demand) (s : State) : EntriesStand s (admitRequest f d s) := fun r => by
  rw [admitRequest_route]
  split
  · next e => subst e; exact ⟨rfl, Iff.rfl⟩
  · exact ⟨rfl, Iff.rfl⟩

theorem withdrawSlot_entries (i : SlotId) (s : State) : EntriesStand s (withdrawSlot i s) :=
  (EntriesStand.trans (.of_routes rfl) (decideOutcome_entries i _ _)).judgeFlow

theorem judgeWaiting_entries (w : WaitingFrame) (s : State) : EntriesStand s (judgeWaiting w s) := by
  rcases judgeWaiting_cases s w with h | ⟨r, b, h⟩ | ⟨k, d, -, -, h⟩ | ⟨i, -, h⟩ <;> rw [h]
  · exact .refl
  · exact .of_routes (by simp)
  · exact admitRequest_entries _ d s
  · exact withdrawSlot_entries i s

theorem admitNext_entries (s : State) : EntriesStand s (admitNext s) := by
  rcases admitNext_cases s with ⟨e, -⟩ | ⟨w, rest, -, e⟩ <;> rw [e]
  · exact .refl
  · exact judgeWaiting_entries w _

theorem admitAll_entries (s : State) : EntriesStand s (admitAll s) :=
  admitAll_induction (P := EntriesStand s) (fun t ht => ht.trans (admitNext_entries t)) .refl

theorem judgeReception_routes (r : Reception) : (judgeReception r s).routes = s.routes := by
  obtain ⟨b, e | ⟨c, e⟩ | ⟨f, k, e⟩ | ⟨q, -, e⟩ | ⟨n, -, -, e⟩⟩ := judgeReception_cases s r <;> rw [e] <;> rfl

theorem grant_routes (c : Choice) : (grant c s).routes = s.routes := by
  cases c <;> unfold grant <;> dsimp only <;> split <;> rfl

theorem completeRequester_entries (q : Requester) (s : State) : EntriesStand s (completeRequester q s) := by
  cases q <;> unfold completeRequester
  case event => dsimp only; split <;> exact .refl
  case slot i =>
    exact (freeSlots_entries [i] { s with completion := s.completion.erase i }).judgeFlow
  all_goals exact .refl

/-! ### The operations on entries -/

/-- An entry written with the configuration it had, its state changed between states other than EMPTY. -/
theorem setRoute_entries {r : RouteId} {e : RouteEntry} (hc : e.config = (s.route r).config) (he : e.state ≠ .empty)
    (hs : (s.route r).state ≠ .empty) : EntriesStand s (s.setRoute r e) := fun k => by
  rw [State.setRoute_route]
  split
  · next h => subst h; exact ⟨hc, iff_of_false he hs⟩
  · exact ⟨rfl, Iff.rfl⟩

/-- An entry written with a label in range that no other entry carries (R12, R13). -/
theorem labelLaw_write {r : RouteId} {e : RouteEntry} (hs : LabelLaw s) (hg : 1 ≤ e.config.label ∧ e.config.label ≤ 4094)
    (hl : ∀ k, k ≠ r → (s.route k).state ≠ .empty → (s.route k).config.label ≠ e.config.label) : LabelLaw (s.setRoute r e) := by
  obtain ⟨hrange, huniq⟩ := hs
  refine ⟨fun k hk => ?_, fun k q hk hq heq => ?_⟩
  · rw [State.setRoute_route] at hk ⊢
    split at hk
    · next h => rw [if_pos h]; exact hg
    · next h => rw [if_neg h]; exact hrange k hk
  · rw [State.setRoute_route] at hk hq heq
    rw [State.setRoute_route] at heq
    by_cases h1 : r = k <;> by_cases h2 : r = q
    · exact h1.symm.trans h2
    · rw [if_neg h2] at hq
      rw [if_pos h1, if_neg h2] at heq
      exact absurd heq.symm (hl q (Ne.symm h2) hq)
    · rw [if_neg h1] at hk
      rw [if_neg h1, if_pos h2] at heq
      exact absurd heq (hl k (Ne.symm h1) hk)
    · rw [if_neg h1] at hk
      rw [if_neg h2] at hq
      rw [if_neg h1, if_neg h2] at heq
      exact huniq k q hk hq heq

/-- An entry made EMPTY leaves the labels of the others (R14). -/
theorem labelLaw_delete {r : RouteId} (hs : LabelLaw s) : LabelLaw (s.setRoute r .powerOn) := by
  obtain ⟨hrange, huniq⟩ := hs
  have hne : ∀ k, ((s.setRoute r .powerOn).route k).state ≠ .empty → r ≠ k ∧ (s.setRoute r .powerOn).route k = s.route k := by
    intro k hk
    rw [State.setRoute_route] at hk ⊢
    split at hk
    · exact absurd rfl hk
    · next h => exact ⟨h, if_neg h⟩
  refine ⟨fun k hk => ?_, fun k q hk hq heq => ?_⟩
  · obtain ⟨-, e⟩ := hne k hk
    rw [e] at hk ⊢; exact hrange k hk
  · obtain ⟨-, ek⟩ := hne k hk
    obtain ⟨-, eq⟩ := hne q hq
    rw [ek] at hk heq; rw [eq] at hq heq
    exact huniq k q hk hq heq

/-- With every entry EMPTY there is no label to speak of. -/
theorem labelLaw_of_empty (h : ∀ r, (s.route r).state = .empty) : LabelLaw s :=
  ⟨fun r hr => absurd (h r) hr, fun r _ hr => absurd (h r) hr⟩

theorem managed_labelLaw {src : Source} (h : LabelLaw s) (hm : Managed src s u) : LabelLaw u := by
  cases hm
  case write r g _ hv hl =>
    obtain ⟨hlabel, -⟩ := hv
    exact labelLaw_write h hlabel hl
  case opened r hc => exact (setRoute_entries (r := r) (e := { s.route r with state := .opened }) rfl (by simp) (by simp [hc])).labelLaw h
  case drained r hc _ =>
    exact (setRoute_entries (r := r) (e := { s.route r with state := .closed }) rfl (by simp) (by simp [hc])).labelLaw h
  case draining r hc _ => exact (setRoute_entries (r := r) (e := { s.route r with state := .draining }) rfl (by simp) (by simp [hc])).labelLaw h
  case deleted r _ => exact labelLaw_delete h
  case laneClaimed l gap _ _ _ =>
    exact (EntriesStand.trans (.of_routes (by simp)) (claimActs_entries l _)).labelLaw h
  case laneOff l _ _ _ => exact (stopAndFlush_entries l _ _ s).labelLaw h
  case laneReset l _ => exact (stopAndFlush_entries l _ _ s).labelLaw h
  case cleared t => cases t <;> exact h
  case reset => exact labelLaw_of_empty fun r => by rw [deviceReset_route]; rfl
  all_goals exact h

theorem move_labelLaw (h : LabelLaw s) (hm : Move True s t) : LabelLaw t := by
  cases hm
  case powerOn => exact labelLaw_of_empty fun r => by rw [powerOn_route]; rfl
  case linkDown =>
    have hu : LabelLaw (linkDownStart s) := h
    exact ((tableLinkDown_entries _).trans (.of_routes (by simp [linkDownState, flowLinkDown, judgeLevels]))).labelLaw hu
  case frameTaken r r' _ =>
    have hr := judgeReception_routes (s := endReception (admitAll s)) r'
    exact ((admitAll_entries s).trans (.of_routes hr)).labelLaw h
  case admitted => exact (admitNext_entries s).labelLaw h
  case readyTimeout l i _ _ => exact (EntriesStand.trans (.of_routes rfl) (retryOrDecide_entries l i _ _)).labelLaw h
  case lastWord l i din _ _ => exact (EntriesStand.trans (.of_routes rfl) (decideOutcome_entries i _ _)).judgeFlow.labelLaw h
  case claim l din _ => exact (EntriesStand.trans (.of_routes (by simp)) (claimActs_entries l _)).labelLaw h
  case granted c _ _ _ => exact (EntriesStand.of_routes (grant_routes c)).labelLaw h
  case frameEnd f _ => exact (EntriesStand.trans (.of_routes rfl) (completeRequester_entries f.requester _)).labelLaw h
  case managed q rest u v r _ hm hv =>
    have hu : LabelLaw u := managed_labelLaw (s := taken s rest) h hm
    rcases hv with rfl | rfl
    · exact hu
    · unfold restartLease
      split <;> exact hu
  all_goals exact h

end

/-- Settles O53: of the moves, the operations on entries alone change a label or make an entry EMPTY or not. -/
theorem labelLawKept : Obligations.LabelLawKept :=
  fun _ _ hs h => step_keeps (P := LabelLaw) (fun _ _ h => h) (fun _ _ h => h) (fun _ _ => move_labelLaw) hs h

end Sys2Proof.Machine

/-!
PROOFS. The law of the lane engines (R65, R66, R67, R78): what each way an engine moves keeps of it, and from it O54.
-/
namespace Sys2Proof.Machine

open Sys2Proof.Safety

/-! ### One engine -/

section
variable {e : LaneEngine}

/-- An engine after a reset is OFF and disabled (R65, R88). -/
theorem engineLaw_powerOn (readyIn claimIn : Bool) :
    EngineLaw { LaneEngine.powerOn with readyIn := readyIn, claimIn := claimIn } := by
  simp [EngineLaw, LaneEngine.powerOn]

/-- An enabled engine whose attempt is over is IDLE, or YIELDED under a held and watched claim (R67). -/
theorem engineLaw_enterIdle (hen : e.enabled = true) (hcur : e.current = none) (hr : e.readyTimer = none) (hg : e.gapTimer = none)
    (hsel : e.selectsOut = 0) : EngineLaw e.enterIdle := by
  unfold LaneEngine.enterIdle
  cases h : e.claimed <;> simp_all [EngineLaw, LaneEngine.claimed]

/-- An enabled engine under no claim whose attempt is over enters GAP, or IDLE with gap 0 (R77). -/
theorem engineLaw_quit_enterGap (hen : e.enabled = true) (hc : e.claimed = false) : EngineLaw e.quit.enterGap := by
  unfold LaneEngine.enterGap
  split
  · exact engineLaw_enterIdle hen rfl rfl rfl rfl
  · simp_all [EngineLaw, LaneEngine.quit, LaneEngine.claimed]

/-- An enabled engine under a held and watched claim, its attempt over, is YIELDED (R79). -/
theorem engineLaw_quit_yielded (hen : e.enabled = true) (hc : e.claimed = true) : EngineLaw { e.quit with state := .yielded } := by
  simp_all [EngineLaw, LaneEngine.quit, LaneEngine.claimed]

/-- An attempt begins on an IDLE engine under no claim (R68). -/
theorem engineLaw_start (h : EngineLaw e) (hs : e.state = .idle) (i : SlotId) (g : RouteConfig) (ready : Bool) :
    EngineLaw (e.start i g ready) := by
  unfold LaneEngine.start
  dsimp only
  split <;> simp_all [EngineLaw, LaneEngine.claimed]

/-- The ready input touches nothing the law speaks of. -/
theorem engineLaw_readyIn (h : EngineLaw e) (b : Bool) : EngineLaw { e with readyIn := b } := h

/-- An engine in READY_WAIT whose ready input is asserted shifts (R69). -/
theorem engineLaw_shift (h : EngineLaw e) (hs : e.state = .readyWait) (sel : BitVec 4) :
    EngineLaw { e with readyIn := true, readyTimer := none, state := .shifting, selectsOut := sel } := by
  simp_all [EngineLaw, LaneEngine.claimed]

/-- An engine that is enabled and not YIELDED is under no held and watched claim. -/
theorem EngineLaw.unclaimed (h : EngineLaw e) (hoff : e.state ≠ .off) (hy : e.state ≠ .yielded) : e.enabled = true ∧ e.claimed = false := by
  obtain ⟨hen, -, -, -, -, hyield, -⟩ := h
  have he : e.enabled = true := by simpa using mt hen.1 hoff
  exact ⟨he, by simpa using fun hc => hy (hyield.2 ⟨he, hc⟩)⟩

/-- An engine outside READY_WAIT and SHIFTING has no attempt: no current slot, no ready timer, no selects. -/
theorem EngineLaw.no_attempt (h : EngineLaw e) (hr : e.state ≠ .readyWait) (hs : e.state ≠ .shifting) :
    e.current = none ∧ e.readyTimer = none ∧ e.selectsOut = 0 := by
  obtain ⟨-, hcur, hready, -, hsel, -⟩ := h
  exact ⟨by simpa [hr, hs] using hcur, by simpa [hr] using hready, hsel hs⟩

/-- An engine outside GAP runs no gap timer. -/
theorem EngineLaw.no_gap (h : EngineLaw e) (hg : e.state ≠ .gap) : e.gapTimer = none := by
  obtain ⟨-, -, -, hgap, -⟩ := h
  simpa [hg] using hgap

/-- The timers of an engine count down without stopping. -/
theorem engineLaw_tick (h : EngineLaw e) :
    EngineLaw { e with readyTimer := countDown e.readyTimer, gapTimer := countDown e.gapTimer } := by
  simpa [EngineLaw, countDown, LaneEngine.claimed] using h

/-- A claim input that is not watched touches nothing the law speaks of. -/
theorem engineLaw_claimIn (h : EngineLaw e) (hw : e.claimWatch = false) : EngineLaw { e with claimIn := true } := by
  simp_all [EngineLaw, LaneEngine.claimed]

/-- The release of a claim in any state but YIELDED touches nothing the law speaks of (R78). -/
theorem engineLaw_release (h : EngineLaw e) (hy : e.state ≠ .yielded) : EngineLaw { e with claimIn := false } := by
  simp_all [EngineLaw, LaneEngine.claimed]

/-- An engine that is OFF, with other settings. -/
theorem engineLaw_off_settings (h : EngineLaw e) (hen : e.enabled = false) (watch : Bool) (gap : Nat) :
    EngineLaw { e with claimWatch := watch, gap := gap } := by
  simp_all [EngineLaw, LaneEngine.claimed]

/-- An engine stopped and disabled is OFF (R85). -/
theorem engineLaw_disabled (e : LaneEngine) (watch : Bool) (gap : Nat) :
    EngineLaw { e.quit with enabled := false, claimWatch := watch, gap := gap, state := .off, clockLevel := .low } := by
  simp [EngineLaw, LaneEngine.quit]

/-- An engine whose settings change without bringing a claim or ending one (R86). -/
theorem engineLaw_settings (h : EngineLaw e) (hen : e.enabled = true) (watch : Bool) (gap : Nat)
    (hw : e.claimWatch = watch ∨ e.claimWatch = true ∧ e.state ≠ .yielded ∨ e.claimWatch = false ∧ e.claimIn = false) :
    EngineLaw { e with enabled := true, claimWatch := watch, gap := gap } := by
  rcases hw with hw | ⟨hw, hy⟩ | ⟨hw, hi⟩ <;> simp_all [EngineLaw, LaneEngine.claimed]

/-- An engine that a claim finds between attempts is YIELDED (R78). -/
theorem engineLaw_yield {b : Bool} (h : EngineLaw { e with claimIn := b }) (hi : e.claimIn = true) (hw : e.claimWatch = true)
    (hs : e.state = .idle ∨ e.state = .gap) : EngineLaw e.yield := by
  unfold LaneEngine.yield
  rcases hs with hs | hs <;> simp_all [EngineLaw, LaneEngine.claimed]

/-- A claim leaves an engine alone that is OFF or YIELDED already (R78). -/
theorem engineLaw_claimed_still {b : Bool} (h : EngineLaw { e with claimIn := b }) (hi : e.claimIn = true) (hw : e.claimWatch = true)
    (hs : e.state = .off ∨ e.state = .yielded) : EngineLaw e := by
  rcases hs with hs | hs <;> simp_all [EngineLaw, LaneEngine.claimed]

end

/-! ### All engines -/

section
variable {s t u : State}

theorem lane_of_lanes (h : t.lanes = s.lanes) (l : LaneId) : t.lane l = s.lane l := by simp only [State.lane, h]

theorem laneLaw_of_lanes (h : t.lanes = s.lanes) (hs : LaneLaw s) : LaneLaw t := fun l => by
  rw [lane_of_lanes h]; exact hs l

/-- One engine replaced by one that obeys its law. -/
theorem laneLaw_setLane {l : LaneId} {e : LaneEngine} (hs : ∀ m, m ≠ l → EngineLaw (s.lane m)) (he : EngineLaw e) :
    LaneLaw (s.setLane l e) := fun m => by
  rw [State.setLane_lane]
  split
  · exact he
  · next h => exact hs m (Ne.symm h)

/-- With every engine as a reset leaves it. -/
theorem laneLaw_of_reset
    (h : ∀ l, s.lane l = { LaneEngine.powerOn with readyIn := (t.lane l).readyIn, claimIn := (t.lane l).claimIn }) : LaneLaw s :=
  fun l => by rw [h]; exact engineLaw_powerOn _ _

/-- A watched claim, just asserted or just watched, brings the engines back under their law (R78). -/
theorem claimActs_laneLaw {l : LaneId} {b : Bool} (hs : ∀ m, m ≠ l → EngineLaw (s.lane m))
    (hl : EngineLaw { s.lane l with claimIn := b }) (hi : (s.lane l).claimIn = true) (hw : (s.lane l).claimWatch = true) :
    LaneLaw (claimActs l s) := by
  rcases claimActs_cases s l with ⟨h, hst⟩ | ⟨h, hst⟩ | ⟨h, hst⟩ <;> rw [h]
  · intro m
    by_cases hm : m = l
    · subst hm; exact engineLaw_claimed_still hl hi hw hst
    · exact hs m hm
  · exact laneLaw_setLane hs (engineLaw_yield hl hi hw hst)
  · obtain ⟨hen, hcur, -⟩ := hl
    obtain ⟨i, hi'⟩ := Option.isSome_iff_exists.1 (hcur.2 hst)
    have hen : (s.lane l).enabled = true := by
      simpa using mt hen.1 (by rcases hst with hst | hst <;> simp [hst])
    rw [contentionAbort_of_current s hi']
    refine laneLaw_of_lanes (s := s.setLane l _) (retryOrDecide_lanes ..) (laneLaw_setLane hs ?_)
    exact engineLaw_quit_yielded hen (by simp [LaneEngine.claimed, hi, hw])

theorem stopAndFlush_laneLaw {l : LaneId} {o : TxOutcome} {e : LaneEngine} (hs : LaneLaw s) (he : EngineLaw e) :
    LaneLaw (stopAndFlush l o e s) :=
  laneLaw_of_lanes (s := s.setLane l e) (by rw [stopAndFlush_eq]; rfl) (laneLaw_setLane (fun m _ => hs m) he)

theorem judgeReception_lanes (r : Reception) : (judgeReception r s).lanes = s.lanes := by
  obtain ⟨b, e | ⟨c, e⟩ | ⟨f, k, e⟩ | ⟨q, -, e⟩ | ⟨n, -, -, e⟩⟩ := judgeReception_cases s r <;> rw [e] <;> rfl

theorem grant_lanes (c : Choice) : (grant c s).lanes = s.lanes := by
  cases c <;> unfold grant <;> dsimp only <;> split <;> rfl

theorem completeRequester_lanes (q : Requester) : (completeRequester q s).lanes = s.lanes := by
  cases q <;> unfold completeRequester
  case event => dsimp only; split <;> rfl
  case slot => simp
  all_goals rfl

theorem managed_laneLaw {src : Source} (h : LaneLaw s) (hm : Managed src s u) : LaneLaw u := by
  cases hm
  case laneOn l watch gap hen =>
    obtain ⟨hoff, -⟩ := h l
    have hst := hoff.1 hen
    obtain ⟨hcur, hr, hsel⟩ := EngineLaw.no_attempt (h l) (by simp [hst]) (by simp [hst])
    have hg := EngineLaw.no_gap (h l) (by simp [hst])
    exact laneLaw_setLane (fun m _ => h m) (engineLaw_enterIdle rfl hcur hr hg hsel)
  case laneClaimed l gap hen hw hi =>
    refine claimActs_laneLaw (b := false) (fun m hm => ?_) ?_ ?_ ?_
    · simpa [Ne.symm hm, lane_of_lanes (strayIfShifting_lanes s l)] using h m
    · have := engineLaw_settings (h l) hen false gap (.inl hw)
      simp_all [EngineLaw, LaneEngine.claimed]
    · simp [hi]
    · simp
  case laneUnwatched l gap hen hy =>
    obtain ⟨hcur, hr, hsel⟩ := EngineLaw.no_attempt (h l) (by simp [hy]) (by simp [hy])
    have hg := EngineLaw.no_gap (h l) (by simp [hy])
    exact laneLaw_setLane (fun m _ => h m) (engineLaw_enterIdle rfl hcur hr hg hsel)
  case laneSettings l watch gap hen hw => exact laneLaw_setLane (fun m _ => h m) (engineLaw_settings (h l) hen watch gap hw)
  case laneOff l watch gap _ => exact stopAndFlush_laneLaw h (engineLaw_disabled _ watch gap)
  case laneOffSettings l watch gap hen => exact laneLaw_setLane (fun m _ => h m) (engineLaw_off_settings (h l) hen watch gap)
  case laneReset l hoff =>
    obtain ⟨hen, -⟩ := h l
    exact stopAndFlush_laneLaw h (engineLaw_enterIdle (by simpa [LaneEngine.quit] using mt hen.1 hoff) rfl rfl rfl rfl)
  case cleared t => cases t <;> exact h
  case reset => exact laneLaw_of_reset (deviceReset_lane s)
  all_goals exact h

theorem move_laneLaw (h : LaneLaw s) (hm : Move True s t) : LaneLaw t := by
  have hset : ∀ {l : LaneId} {e : LaneEngine}, EngineLaw e → LaneLaw (s.setLane l e) := laneLaw_setLane fun m _ => h m
  cases hm
  case tick =>
    intro l
    have hl : (tick s).lane l = { s.lane l with readyTimer := countDown (s.lane l).readyTimer, gapTimer := countDown (s.lane l).gapTimer } := by
      simp [tick, State.lane]
    rw [hl]
    exact engineLaw_tick (h l)
  case powerOn => exact laneLaw_of_reset (powerOn_lane s)
  case linkDown => exact laneLaw_of_lanes (s := s) (by rw [linkDownState_eq]) h
  case frameTaken r r' _ =>
    exact laneLaw_of_lanes ((judgeReception_lanes r').trans (admitAll_lanes s)) h
  case admitted => exact laneLaw_of_lanes (admitNext_lanes s) h
  case attempt l i rest ready hs hc _ => exact hset (engineLaw_start (h l) hs i _ ready)
  case readyInput l => exact hset (engineLaw_readyIn (h l) true)
  case readyStart l i hs _ => exact hset (engineLaw_shift (h l) hs _)
  case readyTimeout l i hs _ =>
    obtain ⟨hen, hc⟩ := EngineLaw.unclaimed (h l) (by simp [hs]) (by simp [hs])
    exact laneLaw_of_lanes (retryOrDecide_lanes ..) (hset (engineLaw_quit_enterGap hen hc))
  case lastWord l i din hs _ =>
    obtain ⟨hen, hc⟩ := EngineLaw.unclaimed (h l) (by simp [hs]) (by simp [hs])
    exact laneLaw_of_lanes ((judgeFlow_lanes _).trans (decideOutcome_lanes ..)) (hset (engineLaw_quit_enterGap hen hc))
  case gapEnd l hs =>
    obtain ⟨hen, hc⟩ := EngineLaw.unclaimed (h l) (by simp [hs]) (by simp [hs])
    obtain ⟨hcur, hr, hsel⟩ := EngineLaw.no_attempt (h l) (by simp [hs]) (by simp [hs])
    exact hset (engineLaw_enterIdle hen hcur hr rfl hsel)
  case claimInput l hw => exact hset (engineLaw_claimIn (h l) hw)
  case claim l din hw =>
    have hlanes := captureUntilClaim_lanes (s.setLane l { s.lane l with claimIn := true }) l din
    have hl : (captureUntilClaim l din (s.setLane l { s.lane l with claimIn := true })).lane l = { s.lane l with claimIn := true } := by
      rw [lane_of_lanes hlanes, State.setLane_lane, if_pos rfl]
    refine claimActs_laneLaw (b := (s.lane l).claimIn) (fun m hm => ?_) ?_ ?_ ?_
    · rw [lane_of_lanes hlanes, State.setLane_lane, if_neg (Ne.symm hm)]; exact h m
    · rw [hl]; exact h l
    · rw [hl]
    · rw [hl]; exact hw
  case claimEnd l hy =>
    obtain ⟨hoff, -⟩ := h l
    have hen : (s.lane l).enabled = true := by simpa using mt hoff.1 (by simp [hy])
    obtain ⟨hcur, hr, hsel⟩ := EngineLaw.no_attempt (h l) (by simp [hy]) (by simp [hy])
    have hg := EngineLaw.no_gap (h l) (by simp [hy])
    exact hset (engineLaw_enterIdle hen hcur hr hg hsel)
  case claimReleased l hy => exact hset (engineLaw_release (h l) hy)
  case granted c _ _ _ => exact laneLaw_of_lanes (grant_lanes c) h
  case frameEnd f _ => exact laneLaw_of_lanes (completeRequester_lanes f.requester) h
  case managed q rest u v r _ hm hv =>
    have hu : LaneLaw u := managed_laneLaw (s := taken s rest) h hm
    rcases hv with rfl | rfl
    · exact hu
    · unfold restartLease
      split <;> exact hu
  all_goals exact h

end

/-- Settles O54: each move of a lane leaves an engine that obeys its law, and every other move leaves the lanes. -/
theorem laneLawKept : Obligations.LaneLawKept :=
  fun _ _ hs h => step_keeps (P := LaneLaw) (fun _ _ h => h) (fun _ _ h => h) (fun _ _ => move_laneLaw) hs h

end Sys2Proof.Machine

/-!
PROOFS. The law of the lock, the queues, the device settings and the inbound hold (R103, R117, R124, R134): what each move keeps of it, and
from it O55.
-/
namespace Sys2Proof.Machine

open Sys2Proof.Safety

section
variable {s t u : State}

/-- The law speaks of the agent, the short-response queue and the inbound hold alone. -/
theorem agentLaw_of_eq (h : AgentLaw s) (ha : t.agent = s.agent) (hq : t.trans.shortQueue = s.trans.shortQueue)
    (hi : t.trans.inboundHold = s.trans.inboundHold) : AgentLaw t := by
  simpa only [AgentLaw, ha, hq, hi] using h

theorem addRecord_agentLaw (h : AgentLaw s) (r : ShortRecord) : AgentLaw (addRecord r s) := by
  rcases addRecord_cases s r with ⟨e, hlen⟩ | e <;> rw [e]
  · obtain ⟨h1, h2, h3, h4, -, h6⟩ := h
    exact ⟨h1, h2, h3, h4, by simpa using hlen, h6⟩
  · exact h

theorem judgeWaiting_agentLaw (h : AgentLaw s) (w : WaitingFrame) : AgentLaw (judgeWaiting w s) := by
  rcases judgeWaiting_cases s w with e | ⟨r, b, e⟩ | ⟨k, d, -, -, e⟩ | ⟨i, -, e⟩ <;> rw [e]
  · exact h
  · exact addRecord_agentLaw (s := { s with counters := b }) h r
  · rw [admitRequest_eq]; exact h
  · rw [withdrawSlot_eq]; exact h

theorem admitNext_agentLaw (h : AgentLaw s) : AgentLaw (admitNext s) := by
  rcases admitNext_cases s with ⟨e, -⟩ | ⟨w, rest, -, e⟩ <;> rw [e]
  · exact h
  · exact judgeWaiting_agentLaw (s := { s with receiver := { s.receiver with admission := rest } }) h w

theorem judgeReception_agentLaw (h : AgentLaw s) (r : Reception) : AgentLaw (judgeReception r s) := by
  obtain ⟨b, e | ⟨c, e⟩ | ⟨f, k, e⟩ | ⟨q, hq, e⟩ | ⟨n, hn, hr, e⟩⟩ := judgeReception_cases s r <;> rw [e]
  · exact h
  · exact h
  · exact h
  · obtain ⟨h1, h2, h3, -, h5, h6⟩ := h
    exact ⟨h1, h2, h3, by simpa using hq, h5, h6⟩
  · obtain ⟨h1, h2, h3, h4, h5, h6, h7, -, -⟩ := h
    exact ⟨h1, h2, h3, h4, h5, h6, h7, hn, fun hf => absurd (hr.symm.trans hf) (by simp)⟩

/-- The lock freed (R130 to R132). -/
theorem agentLaw_unlocked (h : AgentLaw s) :
    AgentLaw { s with agent := { s.agent with holder := none, lease := none, remaining := 0 } } := by
  obtain ⟨-, -, -, h4⟩ := h
  exact ⟨by simp, by simp, by simp, h4⟩

/-- The lock granted or renewed (R129). -/
theorem grantLock_agentLaw (h : AgentLaw s) (src : Source) {lease : Nat} (hl : 100 ≤ lease) (hu : lease ≤ 60000) :
    AgentLaw (grantLock src lease s) := by
  obtain ⟨-, -, -, h4⟩ := h
  exact ⟨by simp [grantLock], by simp [grantLock], by simp [grantLock]; omega, h4⟩

/-- The remaining lease restarted (R131). -/
theorem restartLease_agentLaw (h : AgentLaw s) (src : Source) : AgentLaw (restartLease src s) := by
  unfold restartLease
  split
  · next hh =>
    obtain ⟨h1, h2, h3, h4⟩ := h
    refine ⟨h1, fun hn => absurd (h1.2 hn) (by simp [hh]), fun m hm => ?_, h4⟩
    obtain ⟨hl, hu, -⟩ := h3 m hm
    have hm : s.agent.lease = some m := hm
    simp only [hm, Option.getD_some]
    omega
  · exact h

/-- The power-on values of the agent and the Transmitter (R117, R124). -/
theorem agentLaw_powerOn (ha : s.agent = .powerOn) (hq : s.trans.shortQueue = []) (hi : s.trans.inboundHold = 0) : AgentLaw s := by
  simp only [AgentLaw, ha, hq, hi]
  simp [Agent.powerOn]

theorem managed_agentLaw {src : Source} (h : AgentLaw s) (hm : Managed src s u) : AgentLaw u := by
  cases hm
  case lock lease hl hu => exact grantLock_agentLaw h src hl hu
  case unlock => exact agentLaw_unlocked h
  case device maxFrame label react hf hl =>
    obtain ⟨h1, h2, h3, h4, h5, -, -, h8, -⟩ := h
    refine ⟨h1, h2, h3, h4, h5, hf, hl, ?_, ?_⟩ <;> cases react <;> simp [h8]
  case laneClaimed l gap _ _ _ => exact agentLaw_of_eq h (by simp) (by simp) (by simp)
  case laneOff l watch gap _ => exact agentLaw_of_eq h (by simp) (by simp) (by simp)
  case laneReset l _ => exact agentLaw_of_eq h (by simp) (by simp) (by simp)
  case cleared t => cases t <;> exact h
  case reset => exact agentLaw_powerOn (deviceReset_agent s) (by simp [Transmitter.powerOn]) (by simp [Transmitter.powerOn])
  all_goals exact h

theorem tick_agentLaw (h : AgentLaw s) : AgentLaw (tick s) := by
  have hle : ∀ n, (countDown (running n)).getD 0 ≤ n := by
    intro n
    unfold running
    split
    · exact Nat.zero_le _
    · simp only [countDown, Option.map_some, Option.getD_some]; split <;> omega
  have hpos : ∀ n, 1 ≤ n → 1 ≤ (countDown (running n)).getD 0 := by
    intro n hn
    rw [running, if_neg (by omega)]
    simp only [countDown, Option.map_some, Option.getD_some]; split <;> omega
  obtain ⟨h1, h2, h3, h4, h5, h6, h7, h8, h9⟩ := h
  refine ⟨h1, fun hn => ?_, fun m hm => ?_, h4, h5, h6, h7, (hle _).trans h8, fun hr => ?_⟩
  · exact Nat.le_zero.1 ((hle _).trans (h2 hn).le)
  · obtain ⟨hl, hu, hp, hr⟩ := h3 m hm
    exact ⟨hl, hu, hpos _ hp, (hle _).trans hr⟩
  · exact Nat.le_zero.1 ((hle _).trans (h9 hr).le)

theorem completeRequester_agentLaw (h : AgentLaw s) (q : Requester) : AgentLaw (completeRequester q s) := by
  cases q <;> unfold completeRequester
  case event => dsimp only; split <;> exact h
  case slot i => exact agentLaw_of_eq h (by simp) (by simp) (by simp)
  case record =>
    obtain ⟨h1, h2, h3, h4, h5, h6⟩ := h
    exact ⟨h1, h2, h3, h4, by simp only [List.length_tail]; omega, h6⟩
  all_goals exact h

theorem grant_agentLaw (h : AgentLaw s) (c : Choice) : AgentLaw (grant c s) := by
  cases c <;> unfold grant <;> dsimp only <;> split <;> exact h

theorem move_agentLaw (h : AgentLaw s) (hm : Move True s t) : AgentLaw t := by
  cases hm
  case tick => exact tick_agentLaw h
  case powerOn => exact agentLaw_powerOn rfl rfl rfl
  case linkDown =>
    obtain ⟨-, -, -, h4, -, h6, h7, -, -⟩ := h
    rw [linkDownState_eq]
    exact ⟨by simp [agentLinkDown], by simp [agentLinkDown], by simp [agentLinkDown], h4, by simp [transmitterLinkDown], h6, h7,
      by simp [transmitterLinkDown], by simp [transmitterLinkDown]⟩
  case frameTaken r r' _ =>
    have ha : AgentLaw (admitAll s) := admitAll_induction (P := AgentLaw) (fun _ => admitNext_agentLaw) h
    exact judgeReception_agentLaw (s := endReception (admitAll s)) ha r'
  case admitted => exact admitNext_agentLaw h
  case readyTimeout l i _ _ => rw [retryOrDecide_eq]; exact h
  case lastWord l i din _ _ => rw [judgeFlow_eq, decideOutcome_eq]; exact h
  case claim l din _ => exact agentLaw_of_eq h (by simp) (by simp) (by simp)
  case holdEnd =>
    obtain ⟨h1, h2, h3, h4, h5, h6, h7, -, -⟩ := h
    exact ⟨h1, h2, h3, h4, h5, h6, h7, Nat.zero_le _, fun _ => rfl⟩
  case leaseEnd => exact agentLaw_unlocked h
  case granted c _ _ _ => exact grant_agentLaw h c
  case frameEnd f _ =>
    exact completeRequester_agentLaw
      (s := bumpDevice .framesSent 1 { s with trans := { s.trans with output := none, lastMark := .stop } }) h f.requester
  case managed q rest u v r hq hm hv =>
    have htaken : AgentLaw (taken s rest) := by
      obtain ⟨h1, h2, h3, h4, h5⟩ := h
      rw [hq, List.length_cons] at h4
      exact ⟨h1, h2, h3, by simp only [taken]; omega, h5⟩
    have hu : AgentLaw u := managed_agentLaw htaken hm
    rcases hv with rfl | rfl
    · exact hu
    · exact restartLease_agentLaw hu q.source
  all_goals exact h

end

/-- Settles O55: every move keeps the law, the lock's own operations by their ranges and the queues by their checks. -/
theorem agentLawKept : Obligations.AgentLawKept :=
  fun _ _ hs h => step_keeps (P := AgentLaw) (fun _ _ h => h) (fun _ _ h => h) (fun _ _ => move_agentLaw) hs h

end Sys2Proof.Machine

/-!
PROOFS. The law of the trunk port (R23, R57, R109): what each move keeps of it, and from it O57.
-/
namespace Sys2Proof.Machine

open Sys2Proof.Safety

/-! ### The completion queue grows at its tail -/

section
variable (s : State)

/-- A decided outcome leaves the completion queue or adds the slot at its tail (R53). -/
theorem decideOutcome_completion_prefix (i : SlotId) (o : TxOutcome) : s.completion <+: (decideOutcome i o s).completion := by
  cases h : freedAtOnce (s.slot i) o
  · rw [decideOutcome_of_done _ h]; exact List.prefix_append ..
  · rw [decideOutcome_of_freed _ h, freeSlots_completion]; exact List.prefix_rfl

theorem foldl_decideOutcome_completion_prefix (o : TxOutcome) (is : List SlotId) :
    s.completion <+: (is.foldl (fun t i => decideOutcome i o t) s).completion := by
  induction is generalizing s with
  | nil => exact List.prefix_rfl
  | cons i is ih => exact (decideOutcome_completion_prefix s i o).trans (ih _)

theorem retryOrDecide_completion_prefix (l : LaneId) (i : SlotId) (o : TxOutcome) :
    s.completion <+: (retryOrDecide l i o s).completion := by
  rcases retryOrDecide_cases s l i o with ⟨e, -⟩ | e <;> rw [e]
  · exact List.prefix_rfl
  · exact decideOutcome_completion_prefix s i o

theorem claimActs_completion_prefix (l : LaneId) : s.completion <+: (claimActs l s).completion := by
  rcases claimActs_cases s l with ⟨e, -⟩ | ⟨e, -⟩ | ⟨e, -⟩ <;> rw [e]
  · exact List.prefix_rfl
  · cases hc : (s.lane l).current with
    | none => rw [contentionAbort_of_none s hc]
    | some i =>
      rw [contentionAbort_of_current s hc]
      refine .trans ?_ (retryOrDecide_completion_prefix ..)
      exact List.prefix_rfl

theorem stopAndFlush_completion_prefix (l : LaneId) (o : TxOutcome) (e : LaneEngine) :
    s.completion <+: (stopAndFlush l o e s).completion := by
  have h := foldl_decideOutcome_completion_prefix (((strayIfShifting l s).setLane l e).setQueue l [])
    o (((strayIfShifting l s).lane l).current.toList ++ (strayIfShifting l s).queue l)
  rwa [State.setQueue_completion, State.setLane_completion, strayIfShifting_completion] at h

theorem judgeWaiting_completion_prefix (w : WaitingFrame) : s.completion <+: (judgeWaiting w s).completion := by
  rcases judgeWaiting_cases s w with e | ⟨r, b, e⟩ | ⟨k, d, -, -, e⟩ | ⟨i, -, e⟩ <;> rw [e]
  · rw [addRecord_completion]
  · rw [admitRequest_eq]
  · exact decideOutcome_completion_prefix
      ((s.setSlot i { s.slot i with responseWanted := true }).setQueue (s.slot i).lane ((s.queue (s.slot i).lane).erase i)) i .cancelled

theorem admitNext_completion_prefix : s.completion <+: (admitNext s).completion := by
  rcases admitNext_cases s with ⟨e, -⟩ | ⟨w, rest, -, e⟩ <;> rw [e]
  exact judgeWaiting_completion_prefix { s with receiver := { s.receiver with admission := rest } } w

end

/-! ### The law -/

section
variable {s t u : State}

theorem head?_of_prefix {α : Type} {xs ys : List α} {x : α} (h : xs <+: ys) (hx : xs.head? = some x) : ys.head? = some x := by
  obtain ⟨zs, rfl⟩ := h
  rw [List.head?_append, hx]; rfl

/-- The law looks at the receiver, at the frame being sent and at the head of the completion queue. -/
theorem outputLaw_of (h : OutputLaw s) (hr : t.receiver = s.receiver) (ho : t.trans.output = s.trans.output)
    (hc : s.completion <+: t.completion) : OutputLaw t := by
  obtain ⟨hdown, hlen, hhead⟩ := h
  refine ⟨by rwa [hr, ho], by rwa [hr], fun i hi => head?_of_prefix hc (hhead i ?_)⟩
  simpa only [sendingSlot, ho] using hi

/-- With no frame being sent the law speaks of the receiver alone. -/
theorem outputLaw_of_free (ho : s.trans.output = none) (hr : s.receiver.link = .down → s.receiver.reception = none)
    (hlen : s.receiver.admission.length ≤ 1) : OutputLaw s :=
  ⟨fun hl => ⟨ho, hr hl⟩, hlen, fun i hi => by simp [sendingSlot, ho] at hi⟩

/-- The law stands when the reception ends. -/
theorem outputLaw_no_reception (h : OutputLaw s) (inSync : Bool) (timer : Option Nat) :
    OutputLaw { s with receiver := { s.receiver with inSync := inSync, syncTimer := timer, reception := none } } := by
  obtain ⟨hdown, hlen, hhead⟩ := h
  exact ⟨fun hl => ⟨(hdown hl).1, rfl⟩, hlen, hhead⟩

/-- Admission takes frames from the list (R23). -/
theorem outputLaw_admission (h : OutputLaw s) {ws : List WaitingFrame} (hws : ws.length ≤ 1) :
    OutputLaw { s with receiver := { s.receiver with admission := ws } } := by
  obtain ⟨hdown, -, hhead⟩ := h
  exact ⟨hdown, hws, hhead⟩

theorem admitNext_outputLaw (h : OutputLaw s) : OutputLaw (admitNext s) := by
  refine outputLaw_of (outputLaw_admission h (ws := s.receiver.admission.tail) ?_) admitNext_receiver (admitNext_trans_output s)
    (admitNext_completion_prefix s)
  obtain ⟨-, hlen, -⟩ := h
  simp only [List.length_tail]; omega

/-- A frame judged joins an empty admission list at most (R23). -/
theorem judgeReception_outputLaw (h : OutputLaw s) (hempty : s.receiver.admission = []) (r : Reception) :
    OutputLaw (judgeReception r s) := by
  obtain ⟨b, e | ⟨c, e⟩ | ⟨f, k, e⟩ | ⟨q, -, e⟩ | ⟨n, -, -, e⟩⟩ := judgeReception_cases s r <;> rw [e]
  case inr.inr.inl => exact outputLaw_admission (s := { s with counters := b }) h (by simp [hempty])
  all_goals exact h

/-- A granted frame of a slot is that of the head of the completion queue (R118). -/
theorem grant_outputLaw (h : OutputLaw s) (hup : s.receiver.link = .up) (c : Choice) : OutputLaw (grant c s) := by
  obtain ⟨-, hlen, hhead⟩ := h
  have hdown : s.receiver.link ≠ .down := by simp [hup]
  unfold grant
  cases c <;> dsimp only
  case completion =>
    split
    · exact ⟨fun hl => absurd hl hdown, hlen, hhead⟩
    · next i rest hc =>
      refine ⟨fun hl => absurd hl hdown, hlen, fun j hj => ?_⟩
      simp only [sendingSlot, beginSending, Option.some.injEq] at hj
      subst hj
      simp [beginSending, hc]
  all_goals
    split
    · exact ⟨fun hl => absurd hl hdown, hlen, hhead⟩
    · exact ⟨fun hl => absurd hl hdown, hlen, fun j hj => by simp [sendingSlot, beginSending, grantEvent] at hj⟩

theorem managed_outputLaw {src : Source} (h : OutputLaw s) (hm : Managed src s u) : OutputLaw u := by
  cases hm
  case laneClaimed l gap _ _ _ =>
    exact outputLaw_of h (by simp) (by simp) (by simpa using claimActs_completion_prefix ((strayIfShifting l s).setLane l _) l)
  case laneOff l watch gap _ => exact outputLaw_of h (by simp) (by simp) (stopAndFlush_completion_prefix ..)
  case laneReset l _ => exact outputLaw_of h (by simp) (by simp) (stopAndFlush_completion_prefix ..)
  case cleared t => cases t <;> exact h
  case reset =>
    obtain ⟨hdown, hlen, -⟩ := h
    refine outputLaw_of_free (by simp [Transmitter.powerOn]) ?_ ?_
    · rw [deviceReset_receiver]; exact fun hl => (hdown hl).2
    · rwa [deviceReset_receiver]
  all_goals exact h

/-- After the end of a frame no frame is being sent, whatever requester is completed (R120). -/
theorem completeRequester_output (q : Requester) : (completeRequester q s).trans.output = s.trans.output := by
  cases q <;> unfold completeRequester
  case event => dsimp only; split <;> rfl
  case slot => simp
  all_goals rfl

theorem completeRequester_receiver (q : Requester) : (completeRequester q s).receiver = s.receiver := by
  cases q <;> unfold completeRequester
  case event => dsimp only; split <;> rfl
  case slot => simp
  all_goals rfl

theorem move_outputLaw (h : OutputLaw s) (hm : Move True s t) : OutputLaw t := by
  have hlaw := h
  obtain ⟨hdown, hlen, hhead⟩ := h
  cases hm
  case powerOn => exact outputLaw_of_free rfl (fun _ => rfl) (Nat.zero_le 1)
  case resetLine => exact outputLaw_no_reception (s := { s with resetLine := true }) hlaw _ _
  case syncLost => exact outputLaw_no_reception hlaw _ _
  case linkUp hl =>
    obtain ⟨ho, hr⟩ := hdown hl
    exact outputLaw_of_free ho (fun _ => hr) hlen
  case linkDown =>
    rw [linkDownState_eq]
    exact outputLaw_of_free rfl (fun _ => rfl) (by simpa [receiverLinkDown] using hlen)
  case frameBegun hl =>
    refine ⟨fun hd => ?_, hlen, hhead⟩
    rcases hl with hl | hl
    · exact absurd (hl.symm.trans hd) (by simp)
    · exact absurd hl (by simp [(hdown hd).2])
  case frameDropped => exact outputLaw_no_reception hlaw _ _
  case frameTaken r r' _ =>
    have ha : OutputLaw (admitAll s) := admitAll_induction (P := OutputLaw) (fun _ => admitNext_outputLaw) hlaw
    exact judgeReception_outputLaw (outputLaw_no_reception ha _ _) (by simp) r'
  case admitted => exact admitNext_outputLaw hlaw
  case readyTimeout l i _ _ =>
    refine outputLaw_of hlaw (by simp) (by simp) ?_
    exact retryOrDecide_completion_prefix (setReadyTimeout l
      (bumpSet (s.slotRoute i).counterSet .readyTimeouts 1 (s.setLane l (s.lane l).quit.enterGap))) l i .readyTimeout
  case lastWord l i din _ _ =>
    have hs : OutputLaw ((storeCaptured i din (capturedWords (s.slot i)) s).setLane l (s.lane l).quit.enterGap) := hlaw
    refine outputLaw_of hs (by simp) (by simp) ?_
    exact decideOutcome_completion_prefix ((storeCaptured i din (capturedWords (s.slot i)) s).setLane l (s.lane l).quit.enterGap) i .ok
  case claim l din _ =>
    refine outputLaw_of hlaw (by simp) (by simp) ?_
    simpa using claimActs_completion_prefix (captureUntilClaim l din (s.setLane l { s.lane l with claimIn := true })) l
  case granted c hup _ _ => exact grant_outputLaw hlaw hup c
  case frameEnd f _ =>
    refine outputLaw_of_free (by rw [completeRequester_output]; rfl) ?_ ?_ <;> rw [completeRequester_receiver]
    · exact fun hl => (hdown hl).2
    · exact hlen
  case managed q rest u v r hq hm hv =>
    have hu : OutputLaw u := managed_outputLaw (s := taken s rest) hlaw hm
    rcases hv with rfl | rfl
    · exact hu
    · unfold restartLease
      split <;> exact hu
  all_goals exact ⟨hdown, hlen, hhead⟩

end

/-- Settles O57: a frame begins only with the link UP and of the head of a queue that grows at its tail; link down ends it. -/
theorem outputLawKept : Obligations.OutputLawKept :=
  fun _ _ hs h => step_keeps (P := OutputLaw) (fun _ _ h => h) (fun _ _ h => h) (fun _ _ => move_outputLaw) hs h

end Sys2Proof.Machine

/-!
PROOFS. The law of the Event Unit (R160, R163, R167): what each operation on the unit keeps of it, then each move, and from it O56.
-/
namespace Sys2Proof.Machine

open Sys2Proof.Safety

/-! ### The unit alone -/

/-- The law of the Event Unit but for its last clause: what stands at any moment, a judgement due or not. -/
def EventUnit.Steady (link : LinkState) (e : EventUnit) : Prop :=
  (e.outstanding.isSome = true ↔ e.state = .outstanding) ∧
  (e.state = .quiet → e.request = false) ∧
  (e.state = .requested → e.request = true) ∧
  (e.state ≠ .outstanding → e.repeatTimer = none) ∧
  (e.destination = none → e.state = .quiet) ∧
  (link = .down → e.state = .quiet) ∧
  e.drained.Nodup

/-- No cause for a request is left unrequested (R163). -/
def EventUnit.Settled (link : LinkState) (e : EventUnit) : Prop :=
  e.state = .quiet → e.destination.isSome = true → link = .up → e.hasNews = false

/-- The law of the Event Unit is that the unit is steady and settled under the link's state. -/
theorem eventLaw_iff {s : State} : EventLaw s ↔ s.events.Steady s.receiver.link ∧ s.events.Settled s.receiver.link := by
  simp only [EventUnit.Steady, EventUnit.Settled, and_assoc]

section
variable {e : EventUnit} {link : LinkState}

theorem EventUnit.settled_judge (e : EventUnit) (link : LinkState) : (e.judge link).Settled link := by
  intro hs hd hl
  exact Bool.eq_false_iff.2 fun hn => e.judge_settles link ⟨hs, hd, hl, hn⟩

theorem EventUnit.Steady.judge (h : e.Steady link) : (e.judge link).Steady link := by
  by_cases hc : e.state = .quiet ∧ e.destination.isSome ∧ link = .up ∧ e.hasNews
  · rw [e.judge_of_news hc]
    obtain ⟨hq, hd, hl, -⟩ := hc
    obtain ⟨h1, -, -, h4, -, -, h7⟩ := h
    exact ⟨by simpa [hq] using h1, by simp, by simp, fun _ => h4 (by simp [hq]), fun hn => absurd hd (by simp [show e.destination = none from hn]),
      by simp [hl], h7⟩
  · rwa [e.judge_of_none hc]

theorem EventUnit.Steady.mark (h : e.Steady link) (c : Condition) : (e.mark c).Steady link := h

theorem EventUnit.Steady.report (h : e.Steady link) : e.report.Steady link := h

theorem EventUnit.Steady.unreport (h : e.Steady link) : e.unreport.Steady link := h

/-- With the event ended the unit is steady whatever it was (R165 to R167). -/
theorem EventUnit.steady_endEvent (h : e.drained.Nodup) (link : LinkState) : e.endEvent.Steady link := by
  simpa [EventUnit.Steady, EventUnit.endEvent] using h

/-- A repeat timer started or stopped while the event is outstanding (R164, R165). -/
theorem EventUnit.Steady.repeatTimer (h : e.Steady link) (hs : e.state = .outstanding) (timer : Option Nat) (request : Bool) :
    { e with repeatTimer := timer, request := request }.Steady link := by
  obtain ⟨h1, -, -, -, h5, h6, h7⟩ := h
  exact ⟨h1, by simp [hs], by simp [hs], by simp [hs], h5, h6, h7⟩

theorem EventUnit.drainDone_drained_nodup (h : e.drained.Nodup) (link : LinkState) (r : RouteId) : (e.drainDone link r).drained.Nodup := by
  rw [EventUnit.drainDone_drained]
  split
  · exact h
  · next hr => exact List.nodup_append.2 ⟨h, List.nodup_singleton r, fun a ha b hb => by rintro rfl; exact hr (List.mem_singleton.1 hb ▸ ha)⟩

theorem EventUnit.Steady.drainDone (h : e.Steady link) (r : RouteId) : (e.drainDone link r).Steady link := by
  unfold EventUnit.drainDone
  refine EventUnit.Steady.judge (EventUnit.Steady.mark ?_ .drainDone)
  obtain ⟨h1, h2, h3, h4, h5, h6, h7⟩ := h
  have hd := e.drainDone_drained_nodup h7 link r
  rw [EventUnit.drainDone_drained] at hd
  exact ⟨h1, h2, h3, h4, h5, h6, hd⟩

/-- Drains completed one after another keep the unit steady and settled (R59). -/
theorem foldl_drainDone_law (h : e.Steady link ∧ e.Settled link) (rs : List RouteId) :
    (rs.foldl (fun e r => e.drainDone link r) e).Steady link ∧ (rs.foldl (fun e r => e.drainDone link r) e).Settled link := by
  induction rs generalizing e with
  | nil => exact h
  | cons r rs ih => exact ih ⟨h.1.drainDone r, EventUnit.settled_judge _ link⟩

theorem foldl_drainDone_drained_nodup (h : e.drained.Nodup) (rs : List RouteId) :
    (rs.foldl (fun e r => e.drainDone link r) e).drained.Nodup := by
  induction rs generalizing e with
  | nil => exact h
  | cons r rs ih => exact ih (e.drainDone_drained_nodup h link r)

/-- The settlement of the event in progress by SET_EVENTS keeps the unit steady (R165). -/
theorem EventUnit.Steady.resettle (h : e.Steady link) (mask : BitVec 9) (dest : Option Destination) (interval : Nat) (sending : Bool) :
    (EventUnit.resettle e.destination sending { e with mask := mask, destination := dest, repeatInterval := interval }).Steady link := by
  have hlaw := h
  obtain ⟨h1, h2, h3, h4, h5, h6, h7⟩ := h
  unfold EventUnit.resettle
  split
  · exact (EventUnit.steady_endEvent (e := { e with mask := mask, destination := dest, repeatInterval := interval }) h7 link).unreport
  next hd =>
  have hnew : { e with mask := mask, destination := dest, repeatInterval := interval }.Steady link :=
    ⟨h1, h2, h3, h4, fun hn => h5 (by simpa [show dest = none from hn, eq_comm] using hd), h6, h7⟩
  split
  · exact hnew
  · next hs =>
    split
    · exact hnew
    · exact EventUnit.Steady.repeatTimer hnew hs _ _
  · next hs =>
    split
    · exact hnew
    · have hout : e.outstanding = none := by
        have hs : e.state = .requested := hs
        simpa [hs] using h1
      exact ⟨by simp [hout], by simp, by simp, fun _ => h4 (by simp [show e.state = .requested from hs]), by simp, by simp, h7⟩

end

/-! ### The state -/

section
variable {s t u : State}

/-- The law speaks of the Event Unit and the link alone. -/
theorem eventLaw_of_eq (h : EventLaw s) (he : t.events = s.events) (hr : t.receiver.link = s.receiver.link) : EventLaw t := by
  simpa only [EventLaw, he, hr] using h

/-- A judged unit that was steady obeys the law. -/
theorem eventLaw_of_judge {e : EventUnit} (h : e.Steady s.receiver.link) (he : s.events = e.judge s.receiver.link) : EventLaw s := by
  rw [eventLaw_iff, he]
  exact ⟨h.judge, EventUnit.settled_judge e _⟩

theorem EventUnit.Steady.of_eventLaw (h : EventLaw s) : s.events.Steady s.receiver.link := (eventLaw_iff.1 h).1

theorem setCondition_eventLaw_of_steady (h : s.events.Steady s.receiver.link) (c : Condition) : EventLaw (setCondition c s) :=
  eventLaw_of_judge (h.mark c) rfl

theorem setCondition_eventLaw (h : EventLaw s) (c : Condition) : EventLaw (setCondition c s) :=
  setCondition_eventLaw_of_steady (.of_eventLaw h) c

theorem setContention_eventLaw (h : EventLaw s) (l : LaneId) : EventLaw (setContention l s) :=
  setCondition_eventLaw_of_steady
    (s := { s with events := { s.events with contentionSet := s.events.contentionSet ||| (1#8 <<< l.val) } })
    (EventUnit.Steady.of_eventLaw h) .laneContention

theorem setReadyTimeout_eventLaw (h : EventLaw s) (l : LaneId) : EventLaw (setReadyTimeout l s) :=
  setCondition_eventLaw_of_steady
    (s := { s with events := { s.events with timeoutSet := s.events.timeoutSet ||| (1#8 <<< l.val) } })
    (EventUnit.Steady.of_eventLaw h) .readyTimeout

theorem setDrainDone_eventLaw (h : EventLaw s) (r : RouteId) : EventLaw (setDrainDone r s) :=
  eventLaw_iff.2 ⟨(EventUnit.Steady.of_eventLaw h).drainDone r, EventUnit.settled_judge _ _⟩

theorem judgeLevels_eventLaw (h : EventLaw s) (flag : Bool) (held : BitVec 8) : EventLaw (judgeLevels flag held s) := by
  unfold judgeLevels
  dsimp only
  split
  · exact setCondition_eventLaw h .poolLow
  · exact h

theorem judgeFlow_eventLaw (h : EventLaw s) : EventLaw (judgeFlow s) :=
  eventLaw_of_eq (judgeLevels_eventLaw h s.flow.poolFlag s.flow.heldLanes) rfl rfl

theorem freeSlots_eventLaw (h : EventLaw s) (is : List SlotId) : EventLaw (freeSlots is s) := by
  rw [eventLaw_iff, freeSlots_events, freeSlots_receiver]
  exact foldl_drainDone_law (eventLaw_iff.1 h) _

theorem decideOutcome_eventLaw (h : EventLaw s) (i : SlotId) (o : TxOutcome) : EventLaw (decideOutcome i o s) := by
  cases hf : freedAtOnce (s.slot i) o
  · rw [decideOutcome_of_done _ hf]; exact h
  · rw [decideOutcome_of_freed _ hf]; exact freeSlots_eventLaw (s := countOutcome i o s) h [i]

theorem foldl_decideOutcome_eventLaw (h : EventLaw s) (o : TxOutcome) (is : List SlotId) :
    EventLaw (is.foldl (fun t i => decideOutcome i o t) s) := by
  induction is generalizing s with
  | nil => exact h
  | cons i is ih => exact ih (decideOutcome_eventLaw h i o)

theorem retryOrDecide_eventLaw (h : EventLaw s) (l : LaneId) (i : SlotId) (o : TxOutcome) : EventLaw (retryOrDecide l i o s) := by
  rcases retryOrDecide_cases s l i o with ⟨e, -⟩ | e <;> rw [e]
  · exact h
  · exact judgeFlow_eventLaw (decideOutcome_eventLaw h i o)

theorem claimActs_eventLaw (h : EventLaw s) (l : LaneId) : EventLaw (claimActs l s) := by
  rcases claimActs_cases s l with ⟨e, -⟩ | ⟨e, -⟩ | ⟨e, -⟩ <;> rw [e]
  · exact h
  · exact h
  · cases hc : (s.lane l).current with
    | none => rwa [contentionAbort_of_none s hc]
    | some i =>
      rw [contentionAbort_of_current s hc]
      exact retryOrDecide_eventLaw (setContention_eventLaw
        (s := bumpSet (s.slotRoute i).counterSet .contentions 1 (s.setLane l { (s.lane l).quit with state := .yielded })) h l) ..

theorem stopAndFlush_eventLaw (h : EventLaw s) (l : LaneId) (o : TxOutcome) (e : LaneEngine) : EventLaw (stopAndFlush l o e s) := by
  have hstray : EventLaw (strayIfShifting l s) := eventLaw_of_eq h (by simp) (by simp)
  exact judgeFlow_eventLaw (foldl_decideOutcome_eventLaw (s := ((strayIfShifting l s).setLane l e).setQueue l []) hstray o _)

theorem addRecord_eventLaw (h : EventLaw s) (r : ShortRecord) : EventLaw (addRecord r s) := by
  rcases addRecord_cases s r with ⟨e, -⟩ | e <;> rw [e]
  · exact h
  · exact setCondition_eventLaw (s := bumpDevice .shortDropped 1 s) h .shortLoss

theorem judgeWaiting_eventLaw (h : EventLaw s) (w : WaitingFrame) : EventLaw (judgeWaiting w s) := by
  rcases judgeWaiting_cases s w with e | ⟨r, b, e⟩ | ⟨k, d, -, -, e⟩ | ⟨i, -, e⟩ <;> rw [e]
  · exact h
  · exact addRecord_eventLaw (s := { s with counters := b }) h r
  · unfold admitRequest
    exact judgeFlow_eventLaw h
  · unfold withdrawSlot
    exact judgeFlow_eventLaw (decideOutcome_eventLaw (s := (s.setSlot i { s.slot i with responseWanted := true }).setQueue
      (s.slot i).lane ((s.queue (s.slot i).lane).erase i)) h i .cancelled)

theorem admitNext_eventLaw (h : EventLaw s) : EventLaw (admitNext s) := by
  rcases admitNext_cases s with ⟨e, -⟩ | ⟨w, rest, -, e⟩ <;> rw [e]
  · exact h
  · exact judgeWaiting_eventLaw (s := { s with receiver := { s.receiver with admission := rest } }) h w

theorem judgeReception_eventLaw (h : EventLaw s) (r : Reception) : EventLaw (judgeReception r s) := by
  obtain ⟨b, e | ⟨c, e⟩ | ⟨f, k, e⟩ | ⟨q, -, e⟩ | ⟨n, -, -, e⟩⟩ := judgeReception_cases s r <;> rw [e]
  case inr.inl => exact setCondition_eventLaw (s := { s with counters := b }) h c
  all_goals exact h

/-- A grant of the event request makes the event outstanding under its number (R164). -/
theorem grant_eventLaw (h : EventLaw s) (hup : s.receiver.link = .up) (c : Choice) : EventLaw (grant c s) := by
  unfold grant
  cases c <;> dsimp only
  case event =>
    split
    · exact h
    · next d hd =>
      obtain ⟨-, -, -, -, -, -, h7, -⟩ := h
      refine eventLaw_iff.2 ⟨⟨by simp [grantEvent, beginSending], by simp [grantEvent, beginSending], by simp [grantEvent, beginSending],
        by simp [grantEvent, beginSending], fun hn => ?_, fun hl => absurd (hup.symm.trans hl) (by simp), h7⟩,
        by simp [EventUnit.Settled, grantEvent, beginSending]⟩
      exact absurd (hd.symm.trans hn) (by simp)
  all_goals
    split
    · exact h
    · exact h

theorem completeRequester_eventLaw (h : EventLaw s) (q : Requester) : EventLaw (completeRequester q s) := by
  cases q <;> unfold completeRequester
  case event =>
    dsimp only
    split
    · next hs =>
      obtain ⟨hst, -⟩ := hs
      refine eventLaw_iff.2 ⟨EventUnit.Steady.repeatTimer (.of_eventLaw h) hst _ _, fun hq => ?_⟩
      exact absurd (hst.symm.trans hq) (by simp)
    · exact h
  case slot i => exact judgeFlow_eventLaw (freeSlots_eventLaw (s := { s with completion := s.completion.erase i }) h [i])
  all_goals exact h

theorem managed_eventLaw {src : Source} (h : EventLaw s) (hm : Managed src s u) : EventLaw u := by
  have hsteady : s.events.Steady s.receiver.link := .of_eventLaw h
  cases hm
  case drained r _ _ => exact setDrainDone_eventLaw (s := s.setRoute r { s.route r with state := .closed }) h r
  case laneClaimed l gap _ _ _ =>
    refine claimActs_eventLaw (s := (strayIfShifting l s).setLane l _) ?_ l
    exact eventLaw_of_eq h (by simp) (by simp)
  case laneOff l watch gap _ => exact stopAndFlush_eventLaw h ..
  case laneReset l _ => exact stopAndFlush_eventLaw h ..
  case cleared t => cases t <;> exact h
  case flow g _ =>
    exact judgeLevels_eventLaw (s := { s with flow := { s.flow with settings := g } }) h s.flow.poolFlag s.flow.heldLanes
  case events mask dest interval => exact eventLaw_of_judge (hsteady.resettle mask dest interval _) rfl
  case acked named =>
    obtain ⟨-, -, -, -, -, -, hnodup⟩ := hsteady
    refine eventLaw_of_judge (EventUnit.steady_endEvent ?_ _) rfl
    simp only [acknowledge]
    split
    · exact List.nodup_nil
    · exact hnodup
  case reset => rw [EventLaw, deviceReset_events]; simp [EventUnit.powerOn]
  all_goals exact h

/-- Link down ends the event in progress (R167). -/
theorem linkDownState_eventLaw (h : EventLaw s) : EventLaw (linkDownState s) := by
  have hlink : (linkDownState s).receiver.link = .down := by rw [linkDownState_eq]; rfl
  have hdrained : (tableLinkDown (linkDownStart s)).events.drained.Nodup := by
    obtain ⟨-, -, -, -, -, -, hnodup, -⟩ := h
    unfold tableLinkDown
    dsimp only
    rw [freeSlots_events, foldl_countOutcome_eq]
    exact foldl_drainDone_drained_nodup hnodup _
  have hflow : (flowLinkDown (tableLinkDown (linkDownStart s))).events.drained.Nodup := by
    unfold flowLinkDown judgeLevels
    dsimp only
    split
    · rwa [EventUnit.judge_drained, EventUnit.mark_drained]
    · exact hdrained
  rw [eventLaw_iff, hlink]
  exact ⟨(EventUnit.steady_endEvent hflow .down).unreport, fun _ _ hl => absurd hl (by simp)⟩

theorem move_eventLaw (h : EventLaw s) (hm : Move True s t) : EventLaw t := by
  have hsteady : s.events.Steady s.receiver.link := .of_eventLaw h
  cases hm
  case tick =>
    obtain ⟨h1, h2, h3, h4, h5⟩ := h
    exact ⟨h1, h2, h3, fun hs => by simp [tick, h4 hs, countDown], h5⟩
  case powerOn => exact eventLaw_iff.2 ⟨by simp [EventUnit.Steady, powerOn, State.reset, EventUnit.powerOn],
      by simp [EventUnit.Settled, powerOn, State.reset, EventUnit.powerOn]⟩
  case linkUp hl =>
    obtain ⟨h1, h2, h3, h4, h5, -, h7⟩ := hsteady
    refine eventLaw_of_eq (setCondition_eventLaw_of_steady (s := { s with receiver := { s.receiver with link := .up, syncTimer := none } })
      ⟨h1, h2, h3, h4, h5, by simp, h7⟩ .linkRestored) rfl rfl
  case linkDown => exact linkDownState_eventLaw h
  case frameTaken r r' _ =>
    have ha : EventLaw (admitAll s) := admitAll_induction (P := EventLaw) (fun _ => admitNext_eventLaw) h
    exact judgeReception_eventLaw (s := endReception (admitAll s)) ha r'
  case admitted => exact admitNext_eventLaw h
  case readyTimeout l i _ _ =>
    exact retryOrDecide_eventLaw (setReadyTimeout_eventLaw
      (s := bumpSet (s.slotRoute i).counterSet .readyTimeouts 1 (s.setLane l (s.lane l).quit.enterGap)) h l) ..
  case lastWord l i din _ _ =>
    exact judgeFlow_eventLaw (decideOutcome_eventLaw
      (s := (storeCaptured i din (capturedWords (s.slot i)) s).setLane l (s.lane l).quit.enterGap) h i .ok)
  case claim l din _ => exact claimActs_eventLaw (eventLaw_of_eq h (by simp) (by simp)) l
  case leaseEnd =>
    exact setCondition_eventLaw (s := { s with agent := { s.agent with holder := none, lease := none, remaining := 0 } }) h .lockExpired
  case repeatDue hs =>
    exact eventLaw_iff.2 ⟨EventUnit.Steady.repeatTimer hsteady hs none true, fun hq => absurd (hs.symm.trans hq) (by simp)⟩
  case granted c hup _ _ => exact grant_eventLaw h hup c
  case frameEnd f _ =>
    exact completeRequester_eventLaw
      (s := bumpDevice .framesSent 1 { s with trans := { s.trans with output := none, lastMark := .stop } }) h f.requester
  case managed q rest u v r hq hm hv =>
    have hu : EventLaw u := managed_eventLaw (s := taken s rest) h hm
    rcases hv with rfl | rfl
    · exact hu
    · unfold restartLease
      split <;> exact hu
  all_goals exact h

end

/-- Settles O56: every change of a condition, the mask or the destination ends with a judgement, and the link event ends the event. -/
theorem eventLawKept : Obligations.EventLawKept :=
  fun _ _ hs h => step_keeps (P := EventLaw) (fun _ _ h => h) (fun _ _ h => h) (fun _ _ => move_eventLaw) hs h

end Sys2Proof.Machine

/-!
PROOFS. The law of the Flow Controller (R96 to R101): what each operation on the controller keeps of it, then each move, and from it O58.
-/
namespace Sys2Proof.Machine

open Sys2Proof.Safety

/-! ### The controller alone -/

/-- The clauses of the law that a judgement relies on and does not establish: the ranges, the refresh timer and the pending request. -/
def FlowController.Timed (link : LinkState) (f : FlowController) : Prop :=
  FlowRanges f.settings ∧
  (f.refreshTimer.isSome = true → f.state = .holding ∧ link = .up) ∧
  (f.pendingHold.isSome = true → f.settings.destination.isSome = true ∧ link = .up ∧ f.settings.mode ≠ .off)

/-- The state is the one that mode and pressure call for (R97, R100). -/
def FlowController.Decided (f : FlowController) : Prop :=
  (f.settings.mode = .off → f.state = .clear) ∧ (f.settings.mode ≠ .off → (f.state = .holding ↔ f.pressure = true))

/-- The pool flag and the held lane set agree with their levels (R96). -/
def FlowController.Level (f : FlowController) (free : Nat) (occ : LaneId → Nat) : Prop :=
  (f.poolFlag = false → f.settings.poolHold < free) ∧
  (f.poolFlag = true → free < f.settings.poolRelease) ∧
  (∀ l : LaneId, f.heldLanes.getLsbD l = false → occ l < f.settings.laneHold) ∧
  (∀ l : LaneId, f.heldLanes.getLsbD l = true → f.settings.laneRelease < occ l)

theorem flowLaw_iff {s : State} :
    FlowLaw s ↔ s.flow.Timed s.receiver.link ∧ s.flow.Decided ∧ s.flow.Level s.freeCells s.occupancy := by
  unfold FlowController.Timed FlowController.Decided FlowController.Level
  constructor
  · rintro ⟨h1, h2, h3, h4, h5, h6, h7, h8, h9⟩
    exact ⟨⟨h1, h8, h9⟩, ⟨h6, h7⟩, h2, h3, h4, h5⟩
  · rintro ⟨⟨h1, h8, h9⟩, ⟨h6, h7⟩, h2, h3, h4, h5⟩
    exact ⟨h1, h2, h3, h4, h5, h6, h7, h8, h9⟩

section
variable {f : FlowController} {link : LinkState}

/-- A controller whose state is HOLDING exactly under pressure in a mode other than OFF is decided. -/
theorem FlowController.decided_of_iff (h : f.state = .holding ↔ f.settings.mode ≠ .off ∧ f.pressure = true) : f.Decided := by
  refine ⟨fun hm => ?_, fun hm => by simpa [hm] using h⟩
  cases hs : f.state
  · rfl
  · exact absurd hm (h.1 hs).1

/-- The pressure is read off the flag and the set. -/
theorem FlowController.pressure_congr {g : FlowController} (hp : g.poolFlag = f.poolFlag) (hh : g.heldLanes = f.heldLanes) :
    g.pressure = f.pressure := by
  simp only [FlowController.pressure, hp, hh]

/-- A request made is pending with a destination, the link UP and the mode not OFF (R98). -/
theorem FlowController.Timed.requestFrame (h : f.Timed link) (t : Nat) (ls : BitVec 8) (p : Bool) : (f.requestFrame link t ls p).Timed link := by
  unfold FlowController.requestFrame
  split
  · exact h
  · next d hd =>
    split
    · next hc =>
      obtain ⟨h1, h2, -⟩ := h
      exact ⟨h1, h2, fun _ => ⟨by simp [hd], hc.1, hc.2⟩⟩
    · exact h

/-- A refresh timer started in HOLDING runs with the link UP only (R97, R99). -/
theorem FlowController.Timed.startRefresh (h : f.Timed link) (hs : f.state = .holding) : (f.startRefresh link).Timed link := by
  obtain ⟨h1, -, h3⟩ := h
  refine ⟨h1, fun hr => ⟨hs, ?_⟩, h3⟩
  by_contra hl
  simp [FlowController.startRefresh, hl] at hr

theorem FlowController.Timed.clear (h : f.Timed link) : f.clear.Timed link := by
  obtain ⟨h1, -, h3⟩ := h
  exact ⟨h1, by simp [FlowController.clear], h3⟩

theorem FlowController.Timed.withdrawHold (h : f.Timed link) : f.withdrawHold.Timed link := by
  obtain ⟨h1, h2, -⟩ := h
  exact ⟨h1, h2, by simp [FlowController.withdrawHold]⟩

theorem FlowController.Timed.holdAnew (h : f.Timed link) : (f.holdAnew link).Timed link := by
  have hs : { f with state := .holding }.Timed link := by
    obtain ⟨h1, h2, h3⟩ := h
    exact ⟨h1, fun hr => ⟨rfl, (h2 hr).2⟩, h3⟩
  exact (hs.requestFrame _ _ _).startRefresh (FlowController.requestFrame_state ..)

theorem FlowController.Timed.release (h : f.Timed link) : (f.release link).Timed link := by
  unfold FlowController.release
  split
  · exact h.clear.requestFrame ..
  · exact h.clear.withdrawHold

theorem FlowController.Timed.move (h : f.Timed link) (changed : Bool) : (f.move link changed).Timed link := by
  unfold FlowController.move
  split
  · exact h.clear
  · split
    · exact h.holdAnew
    · exact h
    · split
      · exact h.holdAnew
      · exact h
    · exact h.release

/-- With a destination of none no request can be made, so a pending one may be withdrawn before the decision as well (R98, R100). -/
theorem FlowController.decide_withdrawUndirected (f : FlowController) (link : LinkState) :
    (f.decide link).withdrawUndirected = f.withdrawUndirected.decide link := by
  unfold FlowController.withdrawUndirected
  rw [FlowController.decide_settings]
  split
  · next hd =>
    simp only [FlowController.decide, FlowController.holdAnew, FlowController.release, FlowController.requestHold, FlowController.requestRelease,
      FlowController.requestFrame, FlowController.startRefresh, FlowController.clear, FlowController.withdrawHold, FlowController.pressure, hd]
    split
    · rfl
    · split <;> (try split) <;> rfl
  · rfl

/-- The decision of SET_FLOW, a request standing only as the new settings allow (R100). -/
theorem FlowController.timed_decide (hr : FlowRanges f.settings) (ht : f.refreshTimer.isSome = true → f.state = .holding ∧ link = .up)
    (hp : f.settings.mode ≠ .off → f.pendingHold.isSome = true → f.settings.destination.isSome = true ∧ link = .up) :
    (f.decide link).Timed link := by
  unfold FlowController.decide
  split
  · exact ⟨hr, by simp [FlowController.clear, FlowController.withdrawHold], by simp [FlowController.withdrawHold]⟩
  · next hm =>
    have h : f.Timed link := ⟨hr, ht, fun hs => ⟨(hp hm hs).1, (hp hm hs).2, hm⟩⟩
    split
    · exact h
    · exact h.holdAnew
    · exact h.holdAnew
    · exact h.release

theorem FlowController.decided_move (f : FlowController) (link : LinkState) (changed : Bool) : (f.move link changed).Decided := by
  refine FlowController.decided_of_iff ?_
  rw [FlowController.pressure_congr (f := f) (by simp) (by simp), FlowController.move_settings]
  exact f.move_state_iff link changed

theorem FlowController.Decided.of_eq {g : FlowController} (h : f.Decided) (hg : g.settings = f.settings) (hs : g.state = f.state)
    (hp : g.poolFlag = f.poolFlag) (hh : g.heldLanes = f.heldLanes) : g.Decided := by
  simpa only [FlowController.Decided, hg, hs, FlowController.pressure_congr hp hh] using h

theorem FlowController.Level.of_eq {g : FlowController} {free : Nat} {occ : LaneId → Nat} (h : f.Level free occ) (hg : g.settings = f.settings)
    (hp : g.poolFlag = f.poolFlag) (hh : g.heldLanes = f.heldLanes) : g.Level free occ := by
  simpa only [FlowController.Level, hg, hp, hh] using h

/-- The new values of the flag and the set agree with their levels (R96). -/
theorem FlowController.level_next {g : FlowSettings} (hg : FlowRanges g) (hs : f.settings = g) {free : Nat} {occ : LaneId → Nat} {old : Bool}
    {held : BitVec 8} (hp : f.poolFlag = poolFlagNext g old free) (hh : f.heldLanes = heldNext g held occ) : f.Level free occ := by
  obtain ⟨-, h2, -, h4, -⟩ := hg
  unfold FlowController.Level
  simp only [hp, hh, hs, heldNext_getLsbD, poolFlagNext, laneHeldNext]
  refine ⟨fun h => ?_, fun h => ?_, fun l h => ?_, fun l h => ?_⟩
  · split at h
    · exact absurd h (by simp)
    · omega
  · split at h
    · omega
    · split at h
      · exact absurd h (by simp)
      · omega
  · split at h
    · exact absurd h (by simp)
    · omega
  · split at h
    · omega
    · split at h
      · exact absurd h (by simp)
      · omega

end

/-! ### The state -/

section
variable {s t u : State}

theorem FlowController.Timed.of_flowLaw (h : FlowLaw s) : s.flow.Timed s.receiver.link := (flowLaw_iff.1 h).1

/-- The law speaks of the controller, the link, the free count and the occupancies alone. -/
theorem flowLaw_of_eq (h : FlowLaw s) (hf : t.flow = s.flow) (hl : t.receiver.link = s.receiver.link) (hc : t.freeCells = s.freeCells)
    (ho : ∀ l, t.occupancy l = s.occupancy l) : FlowLaw t := by
  simpa only [FlowLaw, hf, hl, hc, ho] using h

/-- The occupancy of a lane is read off its queue and its current slot (R33). -/
theorem occupancy_congr {l : LaneId} (hq : t.queue l = s.queue l) (hc : (t.lane l).current = (s.lane l).current) :
    t.occupancy l = s.occupancy l := by
  simp only [State.occupancy, hq, hc]

/-- A judgement establishes the law, whatever the flag, the set and the state were (R96, R97). -/
theorem judgeFlow_flowLaw (h : s.flow.Timed s.receiver.link) : FlowLaw (judgeFlow s) := by
  have hr := h.1
  have hf : (judgeFlow s).flow = FlowController.move s.receiver.link
      ((judgeLevels s.flow.poolFlag s.flow.heldLanes s).flow.poolFlag != s.flow.poolFlag ||
        (judgeLevels s.flow.poolFlag s.flow.heldLanes s).flow.heldLanes != s.flow.heldLanes)
      (judgeLevels s.flow.poolFlag s.flow.heldLanes s).flow := rfl
  rw [flowLaw_iff, hf, judgeFlow_freeCells, show (judgeFlow s).receiver.link = s.receiver.link from rfl]
  refine ⟨FlowController.Timed.move ?_ _, FlowController.decided_move .., ?_⟩
  · exact h
  · refine FlowController.level_next hr (old := s.flow.poolFlag) (held := s.flow.heldLanes) ?_ ?_ ?_
    · exact FlowController.move_settings ..
    · exact FlowController.move_poolFlag ..
    · exact FlowController.move_heldLanes ..

/-- A judgement of what leaves the controller and the link as the law has them. -/
theorem judgeFlow_flowLaw_of_eq (h : FlowLaw s) (hf : t.flow = s.flow) (hl : t.receiver.link = s.receiver.link) : FlowLaw (judgeFlow t) :=
  judgeFlow_flowLaw (by rw [hf, hl]; exact .of_flowLaw h)

/-- A lane's engine replaced by one with the same current slot leaves the occupancies. -/
theorem setLane_flowLaw (h : FlowLaw s) {l : LaneId} {e : LaneEngine} (he : e.current = (s.lane l).current) : FlowLaw (s.setLane l e) := by
  refine flowLaw_of_eq h rfl rfl rfl fun m => occupancy_congr rfl ?_
  rw [State.setLane_lane]
  split
  · next hm => rw [he, hm]
  · rfl

/-- A failed attempt whose slot returns to the queue leaves the occupancy of its lane; else the flow is judged (R82). -/
theorem retryOrDecide_flowLaw {l : LaneId} {i : SlotId} {o : TxOutcome} (h : FlowLaw s) (hcur : (s.lane l).current = some i)
    (hf : t.flow = s.flow) (hr : t.receiver = s.receiver) (hc : t.freeCells = s.freeCells) (hq : t.queues = s.queues)
    {e : LaneEngine} (hl : t.lanes = s.lanes.set l e) (he : e.current = none) : FlowLaw (retryOrDecide l i o t) := by
  rcases retryOrDecide_cases t l i o with ⟨eq, -⟩ | eq <;> rw [eq]
  · refine flowLaw_of_eq h hf (by rw [← hr]; rfl) hc fun m => ?_
    have hlane : ∀ m, t.lane m = (s.setLane l e).lane m := fun m => by simp only [State.lane, State.setLane, hl]
    have hqueue : ∀ m, t.queue m = s.queue m := fun m => by simp only [State.queue, hq]
    by_cases hm : l = m
    · subst hm; simp [State.occupancy, hlane, hqueue, hcur, he]
    · simp [State.occupancy, hlane, hqueue, hm]
  · exact judgeFlow_flowLaw_of_eq h (by simpa using hf) (by simp [hr])

theorem enterGap_current (e : LaneEngine) : e.quit.enterGap.current = none := by
  unfold LaneEngine.enterGap
  split <;> rfl

theorem contentionAbort_flowLaw (h : FlowLaw s) (l : LaneId) : FlowLaw (contentionAbort l s) := by
  cases hc : (s.lane l).current with
  | none => rwa [contentionAbort_of_none s hc]
  | some i =>
    rw [contentionAbort_of_current s hc]
    exact retryOrDecide_flowLaw h hc rfl rfl rfl rfl rfl rfl

theorem claimActs_flowLaw (h : FlowLaw s) (l : LaneId) : FlowLaw (claimActs l s) := by
  rcases claimActs_cases s l with ⟨e, -⟩ | ⟨e, -⟩ | ⟨e, -⟩ <;> rw [e]
  · exact h
  · exact setLane_flowLaw h rfl
  · exact contentionAbort_flowLaw h l

theorem judgeWaiting_flowLaw (h : FlowLaw s) (w : WaitingFrame) : FlowLaw (judgeWaiting w s) := by
  rcases judgeWaiting_cases s w with e | ⟨r, b, e⟩ | ⟨k, d, -, -, e⟩ | ⟨i, -, e⟩ <;> rw [e]
  · exact h
  · rw [addRecord_eq]; exact h
  · exact judgeFlow_flowLaw_of_eq h rfl rfl
  · exact judgeFlow_flowLaw_of_eq h (by simp) (by simp)

theorem admitNext_flowLaw (h : FlowLaw s) : FlowLaw (admitNext s) := by
  rcases admitNext_cases s with ⟨e, -⟩ | ⟨w, rest, -, e⟩ <;> rw [e]
  · exact h
  · exact judgeWaiting_flowLaw (s := { s with receiver := { s.receiver with admission := rest } }) h w

theorem judgeReception_flowLaw (h : FlowLaw s) (r : Reception) : FlowLaw (judgeReception r s) := by
  obtain ⟨b, e | ⟨c, e⟩ | ⟨f, k, e⟩ | ⟨q, -, e⟩ | ⟨n, -, -, e⟩⟩ := judgeReception_cases s r <;> rw [e] <;> exact h

theorem grant_flowLaw (h : FlowLaw s) (c : Choice) : FlowLaw (grant c s) := by
  unfold grant
  cases c <;> dsimp only
  case hold =>
    split
    · exact h
    · obtain ⟨h1, h2, h3⟩ := flowLaw_iff.1 h
      exact flowLaw_iff.2 ⟨h1.withdrawHold, h2, h3⟩
  all_goals
    split
    · exact h
    · exact h

theorem completeRequester_flowLaw (h : FlowLaw s) (q : Requester) : FlowLaw (completeRequester q s) := by
  cases q <;> unfold completeRequester
  case event => dsimp only; split <;> exact h
  case slot i => exact judgeFlow_flowLaw_of_eq h (by simp) (by simp)
  all_goals exact h

/-- An accepted SET_FLOW establishes the law under the new settings (R100). -/
theorem applyFlow_flowLaw (h : FlowLaw s) {g : FlowSettings} (hg : FlowRanges g) : FlowLaw (applyFlow g s) := by
  have hold := FlowController.Timed.of_flowLaw h
  set f := (judgeLevels s.flow.poolFlag s.flow.heldLanes { s with flow := { s.flow with settings := g } }).flow with hfdef
  have hf : (applyFlow g s).flow = (f.decide s.receiver.link).withdrawUndirected := rfl
  have hset : f.settings = g := rfl
  have hst : f.state = s.flow.state := rfl
  have htm : f.refreshTimer = s.flow.refreshTimer := rfl
  rw [flowLaw_iff, hf, show (applyFlow g s).receiver.link = s.receiver.link from rfl]
  refine ⟨?_, FlowController.decided_of_iff ?_, ?_⟩
  · obtain ⟨-, ht, hp⟩ := hold
    rw [FlowController.decide_withdrawUndirected]
    refine FlowController.timed_decide (by simpa [hset] using hg) (by simpa [hst, htm] using ht) fun _ hs => ?_
    rw [FlowController.withdrawUndirected_pendingHold] at hs
    split at hs
    · exact absurd hs (by simp)
    · next hd => exact ⟨by simpa [Option.isSome_iff_ne_none] using hd, (hp hs).2.1⟩
  · rw [FlowController.pressure_congr (f := f) (by simp) (by simp), FlowController.withdrawUndirected_settings,
      FlowController.decide_settings, FlowController.withdrawUndirected_state]
    exact f.decide_state_iff s.receiver.link
  · refine FlowController.level_next hg (old := s.flow.poolFlag) (held := s.flow.heldLanes) (by simp [hset]) ?_ ?_
    · rw [FlowController.withdrawUndirected_poolFlag, FlowController.decide_poolFlag]; rfl
    · rw [FlowController.withdrawUndirected_heldLanes, FlowController.decide_heldLanes]; rfl

/-- The power-on values of the controller, with every cell free and every lane empty (R95). -/
theorem flowLaw_powerOn (hf : s.flow = .powerOn) (hc : s.freeCells = 1024) (ho : ∀ l, s.occupancy l = 0) : FlowLaw s := by
  rw [flowLaw_iff, hf, hc]
  simp [FlowController.Timed, FlowController.Decided, FlowController.Level, FlowController.powerOn, FlowController.pressure, FlowRanges, ho]

theorem occupancy_empty {l : LaneId} (hq : s.queue l = []) (hc : (s.lane l).current = none) : s.occupancy l = 0 := by
  simp [State.occupancy, hq, hc]

theorem managed_flowLaw {src : Source} (h : FlowLaw s) (hm : Managed src s u) : FlowLaw u := by
  cases hm
  case laneOn l watch gap _ => exact setLane_flowLaw h rfl
  case laneClaimed l gap _ _ _ =>
    have hs : FlowLaw (strayIfShifting l s) :=
      flowLaw_of_eq h (by simp) (by simp) (by simp) fun m => occupancy_congr (by simp [State.queue]) (by rw [lane_of_lanes]; simp)
    exact claimActs_flowLaw (setLane_flowLaw hs (by rw [lane_of_lanes (strayIfShifting_lanes s l)])) l
  case laneUnwatched l gap _ _ => exact setLane_flowLaw h rfl
  case laneSettings l watch gap _ _ => exact setLane_flowLaw h rfl
  case laneOff l watch gap _ => exact judgeFlow_flowLaw_of_eq h (by rw [flushLane_eq]; simp) (by rw [flushLane_eq]; simp)
  case laneOffSettings l watch gap _ => exact setLane_flowLaw h rfl
  case laneReset l _ => exact judgeFlow_flowLaw_of_eq h (by rw [flushLane_eq]; simp) (by rw [flushLane_eq]; simp)
  case cleared t => cases t <;> exact h
  case flow g hg => exact applyFlow_flowLaw h hg
  case reset => exact flowLaw_powerOn (deviceReset_flow s) (deviceReset_freeCells s) fun l => occupancy_empty (by simp) (by simp [LaneEngine.powerOn])
  all_goals exact h

theorem start_current (e : LaneEngine) (i : SlotId) (g : RouteConfig) (ready : Bool) : (e.start i g ready).current = some i := by
  unfold LaneEngine.start
  dsimp only
  split <;> rfl

/-- Link up: a controller that stands HOLDING requests a frame and starts its timer; before, neither stood (R101). -/
theorem linkUpState_flowLaw (h : FlowLaw s) (hdown : s.receiver.link = .down) : FlowLaw (linkUpState s) := by
  obtain ⟨⟨h1, h2, h3⟩, h4, h5⟩ := flowLaw_iff.1 h
  have htimed : s.flow.Timed .up := ⟨h1, fun hr => ⟨(h2 hr).1, rfl⟩, fun hp => absurd (h3 hp).2.1 (by simp [hdown])⟩
  have hflow : (linkUpState s).flow =
      if s.flow.state = .holding ∧ s.flow.settings.mode ≠ .off ∧ s.flow.settings.destination.isSome then
        (s.flow.requestHold .up).startRefresh .up
      else s.flow := rfl
  rw [flowLaw_iff, hflow, show (linkUpState s).receiver.link = .up from rfl]
  split
  · next hs =>
    have hst : (s.flow.requestHold .up).state = .holding := (FlowController.requestFrame_state ..).trans hs.1
    refine ⟨(htimed.requestFrame _ _ _).startRefresh hst, ?_, ?_⟩
    · exact FlowController.Decided.of_eq h4 (FlowController.requestFrame_settings ..) (FlowController.requestFrame_state ..)
        (FlowController.requestFrame_poolFlag ..) (FlowController.requestFrame_heldLanes ..)
    · exact FlowController.Level.of_eq h5 (FlowController.requestFrame_settings ..) (FlowController.requestFrame_poolFlag ..)
        (FlowController.requestFrame_heldLanes ..)
  · exact ⟨htimed, h4, h5⟩

/-- Link down: flag, set and state are judged afresh, without a timer or a request (R101). -/
theorem flowLinkDown_flowLaw (h : FlowRanges s.flow.settings) : FlowLaw (flowLinkDown s) := by
  set f := (judgeLevels false 0 s).flow
  have hflow : (flowLinkDown s).flow =
      { f with refreshTimer := none, pendingHold := none, state := if f.settings.mode ≠ .off ∧ f.pressure then .holding else .clear } := rfl
  rw [flowLaw_iff, hflow]
  refine ⟨⟨h, by simp, by simp⟩, FlowController.decided_of_iff ?_, ?_⟩
  · change _ ↔ f.settings.mode ≠ .off ∧ f.pressure = true
    by_cases hc : f.settings.mode ≠ .off ∧ f.pressure = true <;> simp [hc]
  · refine FlowController.level_next h ?_ (old := false) (held := 0) ?_ ?_ <;> rfl

theorem linkDownState_flowLaw (h : FlowLaw s) : FlowLaw (linkDownState s) := by
  have hr : FlowRanges (tableLinkDown (linkDownStart s)).flow.settings := by
    rw [tableLinkDown_flow]; exact h.1
  exact flowLaw_of_eq (flowLinkDown_flowLaw hr) rfl rfl rfl fun _ => rfl

theorem move_flowLaw (h : FlowLaw s) (hlane : LaneLaw s) (hm : Move True s t) : FlowLaw t := by
  cases hm
  case tick =>
    obtain ⟨⟨h1, h2, h3⟩, h4, h5⟩ := flowLaw_iff.1 h
    have ho : (tick s).occupancy = s.occupancy := funext fun l => occupancy_congr rfl (by simp [tick, State.lane])
    rw [flowLaw_iff, ho]
    exact ⟨⟨h1, by simpa [tick, countDown] using h2, h3⟩, h4, h5⟩
  case powerOn => exact flowLaw_powerOn rfl rfl fun l => occupancy_empty (by simp) (by simp [LaneEngine.powerOn])
  case linkUp hl => exact linkUpState_flowLaw h hl
  case linkDown => exact linkDownState_flowLaw h
  case frameTaken r r' _ =>
    have ha : FlowLaw (admitAll s) := admitAll_induction (P := FlowLaw) (fun _ => admitNext_flowLaw) h
    exact judgeReception_flowLaw (s := endReception (admitAll s)) ha r'
  case admitted => exact admitNext_flowLaw h
  case attempt l i rest ready hs hc hq =>
    refine flowLaw_of_eq h rfl rfl rfl fun m => ?_
    have hnone := (EngineLaw.no_attempt (hlane l) (by simp [hs]) (by simp [hs])).1
    by_cases hm : l = m
    · subst hm; simp [State.occupancy, hq, hnone, start_current]
    · simp [State.occupancy, hm]
  case readyInput l => exact setLane_flowLaw h rfl
  case readyStart l i _ _ => exact setLane_flowLaw h rfl
  case readyTimeout l i _ hi => exact retryOrDecide_flowLaw h hi rfl rfl rfl rfl rfl (enterGap_current _)
  case lastWord l i din _ _ => exact judgeFlow_flowLaw_of_eq h (by simp; rfl) (by simp; rfl)
  case gapEnd l _ => exact setLane_flowLaw h rfl
  case claimInput l _ => exact setLane_flowLaw h rfl
  case claim l din _ =>
    have hs : FlowLaw (s.setLane l { s.lane l with claimIn := true }) := setLane_flowLaw h rfl
    refine claimActs_flowLaw (flowLaw_of_eq hs (by simp) (by simp) (by simp) fun m => ?_) l
    exact occupancy_congr (by simp [State.queue]) (by rw [lane_of_lanes (captureUntilClaim_lanes ..)])
  case claimEnd l _ => exact setLane_flowLaw h rfl
  case claimReleased l _ => exact setLane_flowLaw h rfl
  case refresh _ hs =>
    obtain ⟨h1, h2, h3⟩ := flowLaw_iff.1 h
    have hst : (s.flow.requestHold s.receiver.link).state = .holding := (FlowController.requestFrame_state ..).trans hs
    refine flowLaw_iff.2 ⟨(h1.requestFrame _ _ _).startRefresh hst, ?_, ?_⟩
    · exact FlowController.Decided.of_eq h2 (FlowController.requestFrame_settings ..) (FlowController.requestFrame_state ..)
        (FlowController.requestFrame_poolFlag ..) (FlowController.requestFrame_heldLanes ..)
    · exact FlowController.Level.of_eq h3 (FlowController.requestFrame_settings ..) (FlowController.requestFrame_poolFlag ..)
        (FlowController.requestFrame_heldLanes ..)
  case granted c _ _ _ => exact grant_flowLaw h c
  case frameEnd f _ =>
    exact completeRequester_flowLaw
      (s := bumpDevice .framesSent 1 { s with trans := { s.trans with output := none, lastMark := .stop } }) h f.requester
  case managed q rest u v r hq hm hv =>
    have hu : FlowLaw u := managed_flowLaw (s := taken s rest) h hm
    rcases hv with rfl | rfl
    · exact hu
    · unfold restartLease
      split <;> exact hu
  all_goals exact h

end

/-- Settles O58: what changes a count ends with a judgement, and the other operations leave the counts or start from none. -/
theorem flowLawKept : Obligations.FlowLawKept :=
  fun _ _ hs hl h => step_keeps (P := fun s => FlowLaw s ∧ LaneLaw s) (fun _ _ h => h) (fun _ _ h => h)
    (fun _ _ hp hm => move_flowLaw hp.1 hp.2 hm) ⟨hs, hl⟩ h

end Sys2Proof.Machine

/-!
PROOFS. The law of the transaction table with some slots taken off their collections, between the moment a slot leaves its queue, its lane or
the completion queue and the moment it is placed again; and what the shared operations keep of it.
-/
namespace Sys2Proof.Machine

open Sys2Proof.Safety

/-! ### All slots, some of them listed apart -/

/-- The slots are those of a list, each once, and the others. -/
theorem finRange_perm {is : List SlotId} (h : is.Nodup) :
    (List.finRange 64).Perm (is ++ (List.finRange 64).filter fun i => i ∉ is) := by
  refine (List.perm_ext_iff_of_nodup (List.nodup_finRange 64) (List.nodup_append.2 ⟨h, (List.nodup_finRange 64).filter _, ?_⟩)).2 ?_
  · rintro a ha b hb rfl
    exact of_decide_eq_true (List.mem_filter.1 hb).2 ha
  · intro i
    by_cases hi : i ∈ is <;> simp [hi]

/-- The reserved cells, those of the listed slots first. -/
theorem reservedCells_perm (s : State) {is : List SlotId} (h : is.Nodup) :
    (reservedCells s).Perm (is.flatMap (fun i => (s.slot i).cells) ++
      ((List.finRange 64).filter fun i => i ∉ is).flatMap fun i => (s.slot i).cells) := by
  rw [← List.flatMap_append]
  exact (finRange_perm h).flatMap_right _

/-- The slots that name an entry, the listed ones first. -/
theorem liveNaming_split (s : State) (r : RouteId) {is : List SlotId} (h : is.Nodup) :
    liveNaming s r = (is.filter fun i => (s.slot i).live && (s.slot i).route == r).length +
      (((List.finRange 64).filter fun i => i ∉ is).filter fun i => (s.slot i).live && (s.slot i).route == r).length := by
  rw [← List.length_append, ← List.filter_append]
  exact ((finRange_perm h).filter _).length_eq

/-! ### Slots that count alike -/

/-- Two slots alike in all that the pool, the in-use counts and the limits look at but the attempts. -/
structure Slot.Alike (a b : Slot) : Prop where
  live : a.live = b.live
  cells : a.cells = b.cells
  need : cellsNeeded a.wordBytes a.writeCount a.readCount = cellsNeeded b.wordBytes b.writeCount b.readCount
  route : a.route = b.route
  lane : a.lane = b.lane
  source : a.source = b.source
  sequence : a.sequence = b.sequence

theorem Slot.Alike.refl (a : Slot) : a.Alike a := ⟨rfl, rfl, rfl, rfl, rfl, rfl, rfl⟩

section
variable {s t : State}

theorem reservedCells_congr (h : ∀ i, (t.slot i).cells = (s.slot i).cells) : reservedCells t = reservedCells s := by
  simp only [reservedCells, h]

theorem poolLaw_of_alike (hs : PoolLaw s) (h : ∀ i, (t.slot i).Alike (s.slot i)) (hc : t.freeCells = s.freeCells) : PoolLaw t := by
  obtain ⟨h1, h2, h3, h4⟩ := hs
  have hr : reservedCells t = reservedCells s := reservedCells_congr fun i => (h i).cells
  refine ⟨by rw [hr, hc]; exact h1, by rwa [hr], by rwa [hr], fun i => ?_⟩
  rw [(h i).cells, (h i).need]; exact h4 i

theorem liveNaming_of_alike (h : ∀ i, (t.slot i).Alike (s.slot i)) (r : RouteId) : liveNaming t r = liveNaming s r := by
  simp only [liveNaming, (h _).live, (h _).route]

theorem inUseLaw_of_alike (hs : InUseLaw s) (h : ∀ i, (t.slot i).Alike (s.slot i)) (hr : t.routes = s.routes) : InUseLaw t := by
  have hroute : ∀ r, t.route r = s.route r := fun r => by simp only [State.route, hr]
  simpa only [InUseLaw, liveNaming_of_alike h, hroute] using hs

/-! ### The law, with slots detached -/

/-- The law of the transaction table but for the slots of `D`, which are on no queue and no lane; each is other than FREE and listed once. -/
structure LooseLaw (D : List SlotId) (s : State) : Prop where
  nodup : D.Nodup
  live : ∀ i ∈ D, (s.slot i).live = true
  free : ∀ i, (s.slot i).state = .free → s.slot i = Slot.freed
  queueNodup : ∀ l, (s.queue l).Nodup
  mem_queue : ∀ l i, i ∈ s.queue l ↔ i ∉ D ∧ (s.slot i).state = .queued ∧ (s.slot i).lane = l
  current : ∀ l i, (s.lane l).current = some i ↔ i ∉ D ∧ (s.slot i).state = .active ∧ (s.slot i).lane = l
  completionNodup : s.completion.Nodup
  mem_completion : ∀ i, i ∈ s.completion ↔ i ∉ D ∧ (s.slot i).state = .done
  outcome : ∀ i, (s.slot i).outcome.isSome = true ↔ (s.slot i).state = .done
  orphan : ∀ i, (s.slot i).orphan = true → (s.slot i).state = .active
  pool : PoolLaw s
  inUse : InUseLaw s
  limit : LimitLaw s

/-- With no slot detached this is the law of the table. -/
theorem tableLaw_iff : TableLaw s ↔ LooseLaw [] s := by
  constructor
  · rintro ⟨⟨h1, h2, h3, h4, h5, h6, h7, h8⟩, hp, hu, hl⟩
    exact ⟨List.nodup_nil, by simp, h1, h2, by simpa using h3, by simpa using h4, h5, by simpa using h6, h7, h8, hp, hu, hl⟩
  · rintro ⟨-, -, h1, h2, h3, h4, h5, h6, h7, h8, hp, hu, hl⟩
    exact ⟨⟨h1, h2, by simpa using h3, by simpa using h4, h5, by simpa using h6, h7, h8⟩, hp, hu, hl⟩

/-- The law looks at the tables, of a slot at what counts alike, its state, attempts, outcome and mark, and of a lane at its current slot
and at whether it is OFF. -/
theorem LooseLaw.of_alike {D : List SlotId} (h : LooseLaw D s) (halike : ∀ i, (t.slot i).Alike (s.slot i))
    (hstate : ∀ i, (t.slot i).state = (s.slot i).state) (hatt : ∀ i, (t.slot i).attempts = (s.slot i).attempts)
    (hout : ∀ i, (t.slot i).outcome = (s.slot i).outcome) (horphan : ∀ i, (t.slot i).orphan = true → (s.slot i).state = .active)
    (hfree : ∀ i, (s.slot i).state = .free → t.slot i = s.slot i) (hr : t.routes = s.routes) (hq : t.queues = s.queues)
    (hd : t.completion = s.completion) (hc : t.freeCells = s.freeCells) (hcur : ∀ l, (t.lane l).current = (s.lane l).current)
    (hoff : ∀ l, (t.lane l).state = .off → (s.lane l).state = .off) : LooseLaw D t := by
  have hqueue : ∀ l, t.queue l = s.queue l := fun l => by simp only [State.queue, hq]
  have hcfg : ∀ i, t.slotRoute i = s.slotRoute i := fun i => by simp only [State.slotRoute, (halike i).route, State.route, hr]
  obtain ⟨h1, h2, h3, h4, h5, h6, h7, h8, h9, h10, hp, hu, ⟨k1, k2, k3, k4, k5, k6⟩⟩ := h
  refine ⟨h1, fun i hi => (halike i).live.trans (h2 i hi), fun i hi => ?_, by simpa only [hqueue] using h4, fun l i => ?_, fun l i => ?_,
    hd ▸ h7, fun i => ?_, fun i => ?_, fun i hi => (hstate i).trans (horphan i hi), poolLaw_of_alike hp halike hc,
    inUseLaw_of_alike hu halike hr, ⟨fun l => ?_, fun l hl => ?_, fun i j => ?_, fun i => ?_, fun i => ?_, fun i => ?_⟩⟩
  · rw [hstate] at hi; exact (hfree i hi).trans (h3 i hi)
  · rw [hqueue, hstate, (halike i).lane]; exact h5 l i
  · rw [hcur, hstate, (halike i).lane]; exact h6 l i
  · rw [hd, hstate]; exact h8 i
  · rw [hout, hstate]; exact h9 i
  · rw [occupancy_congr (hqueue l) (hcur l)]; exact k1 l
  · rw [hqueue]; exact k2 l (hoff l hl)
  · rw [(halike i).live, (halike j).live, (halike i).source, (halike j).source, (halike i).sequence, (halike j).sequence]; exact k3 i j
  · rw [(halike i).live, (halike i).lane, hcfg]; exact k4 i
  · rw [hstate, hatt, hcfg]; exact k5 i
  · rw [(halike i).live, hatt, hcfg]; exact k6 i

theorem LooseLaw.of_eq {D : List SlotId} (h : LooseLaw D s) (hr : t.routes = s.routes) (hs : t.slots = s.slots) (hq : t.queues = s.queues)
    (hd : t.completion = s.completion) (hc : t.freeCells = s.freeCells) (hcur : ∀ l, (t.lane l).current = (s.lane l).current)
    (hoff : ∀ l, (t.lane l).state = .off → (s.lane l).state = .off) : LooseLaw D t := by
  have hslot : ∀ i, t.slot i = s.slot i := fun i => by simp only [State.slot, hs]
  exact h.of_alike (fun i => hslot i ▸ .refl _) (fun i => by rw [hslot]) (fun i => by rw [hslot]) (fun i => by rw [hslot])
    (fun i hi => h.orphan i (hslot i ▸ hi)) (fun i _ => hslot i) hr hq hd hc hcur hoff

theorem tableLaw_of_eq (h : TableLaw s) (hr : t.routes = s.routes) (hs : t.slots = s.slots) (hq : t.queues = s.queues)
    (hd : t.completion = s.completion) (hc : t.freeCells = s.freeCells) (hcur : ∀ l, (t.lane l).current = (s.lane l).current)
    (hoff : ∀ l, (t.lane l).state = .off → (s.lane l).state = .off) : TableLaw t :=
  tableLaw_iff.2 ((tableLaw_iff.1 h).of_eq hr hs hq hd hc hcur hoff)

/-! ### Freeing slots -/

/-- A freeing returns the cells of the slots it frees (R58, R91). -/
theorem freeSlots_poolLaw (h : PoolLaw s) {is : List SlotId} (hn : is.Nodup) : PoolLaw (freeSlots is s) := by
  obtain ⟨h1, h2, h3, h4⟩ := h
  have hp := reservedCells_perm s hn
  have hp' := reservedCells_perm (freeSlots is s) hn
  have hgone : (is.flatMap fun i => ((freeSlots is s).slot i).cells) = [] := by
    rw [List.flatMap_eq_nil_iff]
    intro i hi
    simp [hi, Slot.freed]
  have hrest : (((List.finRange 64).filter fun i => i ∉ is).flatMap fun i => ((freeSlots is s).slot i).cells) =
      ((List.finRange 64).filter fun i => i ∉ is).flatMap fun i => (s.slot i).cells := by
    refine List.flatMap_congr fun i hi => ?_
    rw [freeSlots_slot, if_neg (of_decide_eq_true (List.mem_filter.1 hi).2)]
  rw [hgone, hrest, List.nil_append] at hp'
  have hsum : (is.flatMap fun i => (s.slot i).cells).length = (is.map fun i => (s.slot i).cells.length).sum := List.length_flatMap
  refine ⟨?_, ?_, fun c hc => ?_, fun i => ?_⟩
  · have e := hp.length_eq
    rw [List.length_append, hsum] at e
    rw [freeSlots_freeCells, hp'.length_eq]
    omega
  · exact (hp'.nodup_iff).2 (List.nodup_append.1 (hp.nodup_iff.1 h2)).2.1
  · exact h3 c (hp.mem_iff.2 (List.mem_append_right _ (hp'.mem_iff.1 hc)))
  · rw [freeSlots_slot]
    split
    · rfl
    · exact h4 i

/-- A freeing lowers each in-use count by the slots freed (R17). -/
theorem freeSlots_liveNaming {is : List SlotId} (hn : is.Nodup) (hlive : ∀ i ∈ is, (s.slot i).live = true) (r : RouteId) :
    liveNaming (freeSlots is s) r + namedBy is s r = liveNaming s r := by
  have hgone : (is.filter fun i => ((freeSlots is s).slot i).live && ((freeSlots is s).slot i).route == r) = [] := by
    rw [List.filter_eq_nil_iff]
    intro i hi
    simp [hi, Slot.freed, Slot.live]
  have hnamed : (is.filter fun i => (s.slot i).live && (s.slot i).route == r) = is.filter fun i => (s.slot i).route == r :=
    List.filter_congr fun i hi => by simp [hlive i hi]
  have hrest : (((List.finRange 64).filter fun i => i ∉ is).filter fun i =>
        ((freeSlots is s).slot i).live && ((freeSlots is s).slot i).route == r) =
      ((List.finRange 64).filter fun i => i ∉ is).filter fun i => (s.slot i).live && (s.slot i).route == r := by
    refine List.filter_congr fun i hi => ?_
    rw [freeSlots_slot, if_neg (of_decide_eq_true (List.mem_filter.1 hi).2)]
  rw [liveNaming_split (freeSlots is s) r hn, liveNaming_split s r hn, hgone, hnamed, hrest, namedBy]
  simp [Nat.add_comm]

/-- When a freeing completes a drain (R18). -/
theorem RouteEntry.drains_iff (e : RouteEntry) (n : Nat) : e.drains n = true ↔ e.state = .draining ∧ n ≠ 0 ∧ e.inUse ≤ n := by
  simp [RouteEntry.drains, and_assoc]

theorem RouteEntry.release_inUse (e : RouteEntry) (n : Nat) : (e.release n).inUse = e.inUse - n := rfl

theorem RouteEntry.release_state (e : RouteEntry) (n : Nat) : (e.release n).state = if e.drains n then .closed else e.state := rfl

theorem freeSlots_inUseLaw (h : InUseLaw s) {is : List SlotId} (hn : is.Nodup) (hlive : ∀ i ∈ is, (s.slot i).live = true) :
    InUseLaw (freeSlots is s) := by
  obtain ⟨h1, h2, h3⟩ := h
  refine ⟨fun r => ?_, fun r hr => ?_, fun r hr => ?_⟩
  · have hcount := freeSlots_liveNaming hn hlive r
    have := h1 r
    rw [freeSlots_route, RouteEntry.release_inUse]
    omega
  · rw [freeSlots_route, RouteEntry.release_inUse] at hr
    have hstay : ¬(s.route r).drains (namedBy is s r) = true := by
      rw [RouteEntry.drains_iff]; omega
    rw [freeSlots_route, RouteEntry.release_state, if_neg hstay]
    exact h2 r (by omega)
  · rw [freeSlots_route, RouteEntry.release_state] at hr
    split at hr
    · exact absurd hr (by simp)
    · next hd =>
      have hpos := h3 r hr
      rw [RouteEntry.drains_iff] at hd
      rw [freeSlots_route, RouteEntry.release_inUse]
      by_cases hz : namedBy is s r = 0
      · omega
      · have : ¬(s.route r).inUse ≤ namedBy is s r := fun hle => hd ⟨hr, hz, hle⟩
        omega

/-- Freeing detached slots (R58, R59). -/
theorem freeSlots_looseLaw {is D : List SlotId} (h : LooseLaw (is ++ D) s) : LooseLaw D (freeSlots is s) := by
  obtain ⟨h1, h2, h3, h4, h5, h6, h7, h8, h9, h10, hp, hu, ⟨k1, k2, k3, k4, k5, k6⟩⟩ := h
  obtain ⟨hn, hD, hdisj⟩ := List.nodup_append.1 h1
  have hlive : ∀ i ∈ is, (s.slot i).live = true := fun i hi => h2 i (List.mem_append_left _ hi)
  have hoff : ∀ i, i ∉ is → (freeSlots is s).slot i = s.slot i := fun i hi => by rw [freeSlots_slot, if_neg hi]
  have hin : ∀ i, i ∈ is → (freeSlots is s).slot i = Slot.freed := fun i hi => by rw [freeSlots_slot, if_pos hi]
  have hroute : ∀ i, i ∉ is → (freeSlots is s).slotRoute i = s.slotRoute i := fun i hi => by
    simp only [State.slotRoute, hoff i hi, freeSlots_route_config]
  have hmem : ∀ (st : SlotState), st ≠ .free → ∀ i, (i ∉ is ++ D ∧ (s.slot i).state = st ↔ i ∉ D ∧ ((freeSlots is s).slot i).state = st) := by
    intro st hst i
    by_cases hi : i ∈ is
    · simp [hi, Slot.freed, hst.symm]
    · simp [hi]
  have hlane : ∀ (st : SlotState), st ≠ .free → ∀ l i, (i ∉ is ++ D ∧ (s.slot i).state = st ∧ (s.slot i).lane = l ↔
      i ∉ D ∧ ((freeSlots is s).slot i).state = st ∧ ((freeSlots is s).slot i).lane = l) := by
    intro st hst l i
    by_cases hi : i ∈ is
    · simp [hi, Slot.freed, hst.symm]
    · simp [hi]
  have hstay : ∀ i, ((freeSlots is s).slot i).state ≠ .free → i ∉ is := fun i hi hm => hi (by rw [hin i hm]; rfl)
  have hstayLive : ∀ i, ((freeSlots is s).slot i).live = true → i ∉ is := fun i hi => hstay i (by simpa [Slot.live] using hi)
  refine ⟨hD, fun i hi => ?_, fun i hi => ?_, by simpa using h4, fun l i => ?_, fun l i => ?_, by simpa using h7, fun i => ?_, fun i => ?_,
    fun i hi => ?_, freeSlots_poolLaw hp hn, freeSlots_inUseLaw hu hn hlive,
    ⟨fun l => ?_, by simpa using k2, fun i j hi hj => ?_, fun i hi => ?_, fun i hi => ?_, fun i hi => ?_⟩⟩
  case refine_1 => rw [hoff i fun hm => hdisj i hm i hi rfl]; exact h2 i (List.mem_append_right _ hi)
  case refine_2 =>
    by_cases hm : i ∈ is
    · exact hin i hm
    · rw [hoff i hm] at hi ⊢; exact h3 i hi
  case refine_3 => rw [freeSlots_queue, h5, hlane .queued (by simp)]
  case refine_4 => rw [freeSlots_lane, h6, hlane .active (by simp)]
  case refine_5 => rw [freeSlots_completion, h8, hmem .done (by simp)]
  case refine_6 =>
    by_cases hm : i ∈ is
    · simp [hin i hm, Slot.freed]
    · rw [hoff i hm]; exact h9 i
  case refine_7 =>
    by_cases hm : i ∈ is
    · simp [hin i hm, Slot.freed] at hi
    · rw [hoff i hm] at hi ⊢; exact h10 i hi
  case refine_8 => rw [occupancy_congr (freeSlots_queue is s l) (by rw [freeSlots_lane])]; exact k1 l
  case refine_9 =>
    have hmi := hstayLive i hi
    have hmj := hstayLive j hj
    rw [hoff i hmi] at hi ⊢
    rw [hoff j hmj] at hj ⊢
    exact k3 i j hi hj
  case refine_10 =>
    have hm := hstayLive i hi
    rw [hroute i hm]; rw [hoff i hm] at hi ⊢; exact k4 i hi
  case refine_11 =>
    have hm := hstay i (by rw [hi]; simp)
    rw [hroute i hm]; rw [hoff i hm] at hi ⊢; exact k5 i hi
  case refine_12 =>
    have hm := hstayLive i hi
    rw [hroute i hm]; rw [hoff i hm] at hi ⊢; exact k6 i hi

/-! ### Placing a detached slot -/

/-- A slot detached is none of the others, and the others are detached still. -/
theorem LooseLaw.head {D : List SlotId} {i : SlotId} (h : LooseLaw (i :: D) s) : i ∉ D ∧ D.Nodup := List.nodup_cons.1 h.nodup

/-- A detached slot placed again, as `x`: QUEUED on its queue, ACTIVE on its lane or DONE on the completion queue, and nothing else moved. -/
structure Placed (i : SlotId) (x : Slot) (s t : State) : Prop where
  self : t.slot i = x
  other : ∀ j, j ≠ i → t.slot j = s.slot j
  alike : x.Alike (s.slot i)
  queueNodup : ∀ l, (t.queue l).Nodup
  mem_queue : ∀ l j, j ∈ t.queue l ↔ j ∈ s.queue l ∨ j = i ∧ x.state = .queued ∧ x.lane = l
  current : ∀ l j, (t.lane l).current = some j ↔ (s.lane l).current = some j ∨ j = i ∧ x.state = .active ∧ x.lane = l
  completionNodup : t.completion.Nodup
  mem_completion : ∀ j, j ∈ t.completion ↔ j ∈ s.completion ∨ j = i ∧ x.state = .done
  outcome : x.outcome.isSome = true ↔ x.state = .done
  orphan : x.orphan = true → x.state = .active
  routes : t.routes = s.routes
  freeCells : t.freeCells = s.freeCells
  occupancy : ∀ l, t.occupancy l ≤ 16
  off : ∀ l, (t.lane l).state = .off → t.queue l = []
  queued : x.state = .queued → x.attempts ≤ (s.slotRoute i).retryLimit
  attempts : x.attempts ≤ (s.slotRoute i).retryLimit + 1

theorem Placed.alike_all {i : SlotId} {x : Slot} (p : Placed i x s t) (j : SlotId) : (t.slot j).Alike (s.slot j) := by
  by_cases hj : j = i
  · subst hj; rw [p.self]; exact p.alike
  · rw [p.other j hj]; exact .refl _

theorem Placed.slotRoute {i : SlotId} {x : Slot} (p : Placed i x s t) (j : SlotId) : t.slotRoute j = s.slotRoute j := by
  simp only [State.slotRoute, (p.alike_all j).route, State.route, p.routes]

theorem Placed.limitLaw {i : SlotId} {x : Slot} (p : Placed i x s t) (h : LimitLaw s) : LimitLaw t := by
  obtain ⟨-, -, k3, k4, k5, k6⟩ := h
  have halike := p.alike_all
  refine ⟨p.occupancy, p.off, fun j k => ?_, fun j => ?_, fun j hj => ?_, fun j hj => ?_⟩
  · rw [(halike j).live, (halike k).live, (halike j).source, (halike k).source, (halike j).sequence, (halike k).sequence]; exact k3 j k
  · rw [(halike j).live, (halike j).lane, p.slotRoute]; exact k4 j
  · rw [p.slotRoute]
    by_cases e : j = i
    · subst e; rw [p.self] at hj ⊢; exact p.queued hj
    · rw [p.other j e] at hj ⊢; exact k5 j hj
  · rw [(halike j).live] at hj
    rw [p.slotRoute]
    by_cases e : j = i
    · subst e; rw [p.self]; exact p.attempts
    · rw [p.other j e]; exact k6 j hj

theorem Placed.looseLaw {D : List SlotId} {i : SlotId} {x : Slot} (p : Placed i x s t) (h : LooseLaw (i :: D) s) : LooseLaw D t := by
  obtain ⟨hi, hD⟩ := h.head
  have hfree : x.state ≠ .free := by
    have := p.alike.live.trans (h.live i List.mem_cons_self)
    simpa [Slot.live] using this
  have hself := p.self
  refine ⟨hD, fun j hj => ?_, fun j hj => ?_, p.queueNodup, fun l j => ?_, fun l j => ?_, p.completionNodup, fun j => ?_, fun j => ?_,
    fun j hj => ?_, poolLaw_of_alike h.pool p.alike_all p.freeCells, inUseLaw_of_alike h.inUse p.alike_all p.routes, p.limitLaw h.limit⟩
  case refine_1 => exact (p.alike_all j).live.trans (h.live j (List.mem_cons_of_mem _ hj))
  case refine_3 =>
    rw [p.mem_queue, h.mem_queue]
    by_cases e : j = i
    · subst e; simp [hself, hi]
    · simp [p.other j e, e]
  case refine_4 =>
    rw [p.current, h.current]
    by_cases e : j = i
    · subst e; simp [hself, hi]
    · simp [p.other j e, e]
  case refine_5 =>
    rw [p.mem_completion, h.mem_completion]
    by_cases e : j = i
    · subst e; simp [hself, hi]
    · simp [p.other j e, e]
  all_goals by_cases e : j = i
  · subst e; rw [p.self] at hj; exact absurd hj hfree
  · rw [p.other j e] at hj ⊢; exact h.free j hj
  · subst e; rw [p.self]; exact p.outcome
  · rw [p.other j e]; exact h.outcome j
  · subst e; rw [p.self] at hj ⊢; exact p.orphan hj
  · rw [p.other j e] at hj ⊢; exact h.orphan j hj

/-! ### Where slots are placed -/

section
variable {D : List SlotId} {i : SlotId}

/-- A detached slot becomes DONE at the tail of the completion queue (R53). -/
theorem looseLaw_done (h : LooseLaw (i :: D) s) (o : TxOutcome) (horphan : (s.slot i).orphan = false) :
    LooseLaw D { s.setSlot i { s.slot i with outcome := some o, state := .done } with completion := s.completion ++ [i] } := by
  have hlive := h.live i List.mem_cons_self
  have hnew : i ∉ s.completion := fun hm => ((h.mem_completion i).1 hm).1 List.mem_cons_self
  obtain ⟨hocc, hoff, -, -, -, hatt⟩ := h.limit
  refine Placed.looseLaw (x := { s.slot i with outcome := some o, state := .done }) ?_ h
  exact {
    self := (State.setSlot_slot ..).trans (if_pos rfl)
    other := fun j hj => (State.setSlot_slot ..).trans (if_neg (Ne.symm hj))
    alike := ⟨hlive.symm, rfl, rfl, rfl, rfl, rfl, rfl⟩
    queueNodup := h.queueNodup
    mem_queue := fun l j => by simp [State.queue, State.setSlot]
    current := fun l j => by simp [State.lane, State.setSlot]
    completionNodup := List.nodup_append.2 ⟨h.completionNodup, List.nodup_singleton i, fun a ha b hb e => hnew (List.mem_singleton.1 hb ▸ e ▸ ha)⟩
    mem_completion := by simp
    outcome := by simp
    orphan := by simp [horphan]
    routes := rfl
    freeCells := rfl
    occupancy := hocc
    off := hoff
    queued := by simp
    attempts := hatt i hlive }

/-- A detached slot returns to the head of its lane's queue (R82). -/
theorem looseLaw_requeue (h : LooseLaw (i :: D) s) {l : LaneId} (hl : (s.slot i).lane = l) (hocc : s.occupancy l < 16)
    (hoff : (s.lane l).state ≠ .off) (horphan : (s.slot i).orphan = false) (hout : (s.slot i).outcome = none)
    (hatt : (s.slot i).attempts ≤ (s.slotRoute i).retryLimit) :
    LooseLaw D ((s.setSlot i { s.slot i with state := .queued }).setQueue l (i :: s.queue l)) := by
  have hlive := h.live i List.mem_cons_self
  have hnew : i ∉ s.queue l := fun hm => ((h.mem_queue l i).1 hm).1 List.mem_cons_self
  obtain ⟨hoccs, hoffs, -⟩ := h.limit
  refine Placed.looseLaw (x := { s.slot i with state := .queued }) ?_ h
  exact {
    self := by simp
    other := fun j hj => by simp [Ne.symm hj]
    alike := ⟨hlive.symm, rfl, rfl, rfl, rfl, rfl, rfl⟩
    queueNodup := fun m => by
      rw [State.setQueue_queue]
      split
      · exact List.nodup_cons.2 ⟨hnew, h.queueNodup l⟩
      · exact h.queueNodup m
    mem_queue := fun m j => by
      rw [State.setQueue_queue]
      split
      · next e => subst e; simp [hl, or_comm]
      · next e => simp [hl, e]
    current := by simp
    completionNodup := h.completionNodup
    mem_completion := by simp
    outcome := by simp [hout]
    orphan := by simp [horphan]
    routes := rfl
    freeCells := rfl
    occupancy := fun m => by
      by_cases e : l = m
      · subst e
        cases hc : (s.lane l).current <;> simp [State.occupancy, hc] at hocc ⊢ <;> omega
      · exact le_of_eq_of_le (occupancy_congr (s := s) (by simp [e]) rfl) (hoccs m)
    off := fun m hm => by
      have e : l ≠ m := fun e => hoff (e ▸ hm)
      simpa [e] using hoffs m hm
    queued := fun _ => hatt
    attempts := Nat.le_succ_of_le hatt }

/-- A detached slot becomes ACTIVE on a lane that has no current slot (R50, R68). -/
theorem looseLaw_start (h : LooseLaw (i :: D) s) {l : LaneId} (hl : (s.slot i).lane = l) {e : LaneEngine} (he : e.current = some i)
    (hcur : (s.lane l).current = none) (hoff : e.state ≠ .off) (hocc : (s.queue l).length < 16) (hout : (s.slot i).outcome = none)
    (hatt : (s.slot i).attempts ≤ (s.slotRoute i).retryLimit) :
    LooseLaw D ((s.setSlot i { s.slot i with state := .active, attempts := (s.slot i).attempts + 1 }).setLane l e) := by
  have hlive := h.live i List.mem_cons_self
  obtain ⟨hoccs, hoffs, -⟩ := h.limit
  refine Placed.looseLaw (x := { s.slot i with state := .active, attempts := (s.slot i).attempts + 1 }) ?_ h
  exact {
    self := by simp
    other := fun j hj => by simp [Ne.symm hj]
    alike := ⟨hlive.symm, rfl, rfl, rfl, rfl, rfl, rfl⟩
    queueNodup := h.queueNodup
    mem_queue := by simp
    current := fun m j => by
      rw [State.setLane_lane]
      split
      · next e => subst e; simp [he, hcur, hl, eq_comm]
      · next e => simp [hl, e]
    completionNodup := h.completionNodup
    mem_completion := by simp
    outcome := by simp [hout]
    orphan := fun _ => rfl
    routes := rfl
    freeCells := rfl
    occupancy := fun m => by
      by_cases hlm : l = m
      · subst hlm; simp [State.occupancy, he]; omega
      · exact le_of_eq_of_le (occupancy_congr (s := s) rfl (by simp [hlm])) (hoccs m)
    off := fun m hm => by
      rw [State.setLane_lane] at hm
      split at hm
      · exact absurd hm hoff
      · exact hoffs m hm
    queued := by simp
    attempts := Nat.succ_le_succ hatt }

/-! ### Where slots are detached -/

/-- Slots taken off the collections they are on, which lose nothing else. -/
theorem looseLaw_detach (h : LooseLaw D s) {is : List SlotId} (hn : is.Nodup) (hin : ∀ j ∈ is, j ∉ D ∧ (s.slot j).live = true)
    (hr : t.routes = s.routes) (hs : t.slots = s.slots) (hc : t.freeCells = s.freeCells)
    (hqs : ∀ l, (t.queue l).Sublist (s.queue l)) (hq : ∀ l j, j ∈ t.queue l ↔ j ∉ is ∧ j ∈ s.queue l)
    (hcur : ∀ l j, (t.lane l).current = some j ↔ j ∉ is ∧ (s.lane l).current = some j)
    (hds : t.completion.Sublist s.completion) (hd : ∀ j, j ∈ t.completion ↔ j ∉ is ∧ j ∈ s.completion)
    (hoff : ∀ l, (t.lane l).state = .off → t.queue l = [] ∨ (s.lane l).state = .off) : LooseLaw (is ++ D) t := by
  have hslot : ∀ i, t.slot i = s.slot i := fun i => by simp only [State.slot, hs]
  have hroute : ∀ i, t.slotRoute i = s.slotRoute i := fun i => by simp only [State.slotRoute, hslot, State.route, hr]
  have halike : ∀ i, (t.slot i).Alike (s.slot i) := fun i => hslot i ▸ .refl _
  obtain ⟨k1, k2, k3, k4, k5, k6⟩ := h.limit
  have hocc : ∀ l, t.occupancy l ≤ s.occupancy l := fun l => by
    have hlen := (hqs l).length_le
    simp only [State.occupancy]
    cases hm : (t.lane l).current with
    | none => simp; omega
    | some j => simp [((hcur l j).1 hm).2]; omega
  refine ⟨List.nodup_append.2 ⟨hn, h.nodup, fun a ha b hb hab => (hin a ha).1 (hab ▸ hb)⟩, fun j hj => ?_, by simpa only [hslot] using h.free,
    fun l => (h.queueNodup l).sublist (hqs l), fun l j => ?_, fun l j => ?_, h.completionNodup.sublist hds, fun j => ?_,
    by simpa only [hslot] using h.outcome, by simpa only [hslot] using h.orphan, poolLaw_of_alike h.pool halike hc,
    inUseLaw_of_alike h.inUse halike hr, fun l => (hocc l).trans (k1 l), fun l hl => ?_, by simpa only [hslot] using k3,
    by simpa only [hslot, hroute] using k4, by simpa only [hslot, hroute] using k5, by simpa only [hslot, hroute] using k6⟩
  · rw [hslot]
    rcases List.mem_append.1 hj with hj | hj
    · exact (hin j hj).2
    · exact h.live j hj
  · rw [hq, h.mem_queue, hslot, List.mem_append, not_or, and_assoc]
  · rw [hcur, h.current, hslot, List.mem_append, not_or, and_assoc]
  · rw [hd, h.mem_completion, hslot, List.mem_append, not_or, and_assoc]
  · rcases hoff l hl with e | e
    · exact e
    · exact List.eq_nil_of_subset_nil (k2 l e ▸ (hqs l).subset)

theorem live_of_state {x : Slot} {st : SlotState} (h : x.state = st) (hst : st ≠ .free) : x.live = true := by
  simp [Slot.live, h, hst]

theorem not_mem_singleton_of_state {j : SlotId} {a b : SlotState} (hi : (s.slot i).state = a) (hj : (s.slot j).state = b) (hab : a ≠ b) :
    j ∉ [i] := fun h => hab (hi.symm.trans (List.mem_singleton.1 h ▸ hj))

/-- A slot leaves its lane's queue (R41, R50). -/
theorem looseLaw_leaveQueue (h : LooseLaw D s) {l : LaneId} (hi : i ∈ s.queue l) :
    LooseLaw (i :: D) (s.setQueue l ((s.queue l).erase i)) := by
  obtain ⟨hiD, hst, hlane⟩ := (h.mem_queue l i).1 hi
  have hsub : ∀ m, ((s.setQueue l ((s.queue l).erase i)).queue m).Sublist (s.queue m) := fun m => by
    rw [State.setQueue_queue]
    split
    · next e => subst e; exact List.erase_sublist
    · exact .refl _
  refine looseLaw_detach (is := [i]) h (List.nodup_singleton i) (by simpa using ⟨hiD, live_of_state hst (by simp)⟩) rfl rfl rfl hsub
    (fun m j => ?_) (fun m j => ?_) (.refl _) (fun j => ?_) fun m hm => .inr hm
  · rw [State.setQueue_queue]
    split
    · next e => subst e; rw [(h.queueNodup l).mem_erase_iff]; simp
    · next e =>
      exact iff_and_self.2 fun hj hji => e (hlane.symm.trans (List.mem_singleton.1 hji ▸ ((h.mem_queue m j).1 hj).2.2))
  · exact iff_and_self.2 fun hj => not_mem_singleton_of_state hst ((h.current m j).1 hj).2.1 (by simp)
  · exact iff_and_self.2 fun hj => not_mem_singleton_of_state hst ((h.mem_completion j).1 hj).2 (by simp)

/-- The current slot leaves its lane (R76, R79, R82). -/
theorem looseLaw_leaveLane (h : LooseLaw D s) {l : LaneId} (hi : (s.lane l).current = some i) {e : LaneEngine} (he : e.current = none)
    (hoff : e.state ≠ .off) : LooseLaw (i :: D) (s.setLane l e) := by
  obtain ⟨hiD, hst, hlane⟩ := (h.current l i).1 hi
  refine looseLaw_detach (is := [i]) h (List.nodup_singleton i) (by simpa using ⟨hiD, live_of_state hst (by simp)⟩) rfl rfl rfl
    (fun m => .refl _) (fun m j => ?_) (fun m j => ?_) (.refl _) (fun j => ?_) fun m hm => ?_
  · exact iff_and_self.2 fun hj => not_mem_singleton_of_state hst ((h.mem_queue m j).1 hj).2.1 (by simp)
  · rw [State.setLane_lane]
    split
    · next e' => subst e'; simp [he, hi, eq_comm]
    · next e' =>
      exact iff_and_self.2 fun hj hji => e' (hlane.symm.trans (List.mem_singleton.1 hji ▸ ((h.current m j).1 hj).2.2))
  · exact iff_and_self.2 fun hj => not_mem_singleton_of_state hst ((h.mem_completion j).1 hj).2 (by simp)
  · rw [State.setLane_lane] at hm
    split at hm
    · exact absurd hm hoff
    · exact .inr hm

/-- A slot leaves the completion queue (R58). -/
theorem looseLaw_leaveCompletion (h : LooseLaw D s) (hi : i ∈ s.completion) :
    LooseLaw (i :: D) { s with completion := s.completion.erase i } := by
  obtain ⟨hiD, hst⟩ := (h.mem_completion i).1 hi
  refine looseLaw_detach (is := [i]) h (List.nodup_singleton i) (by simpa using ⟨hiD, live_of_state hst (by simp)⟩) rfl rfl rfl
    (fun m => .refl _) (fun m j => ?_) (fun m j => ?_) List.erase_sublist (fun j => ?_) fun m hm => .inr hm
  · exact iff_and_self.2 fun hj => not_mem_singleton_of_state hst ((h.mem_queue m j).1 hj).2.1 (by simp)
  · exact iff_and_self.2 fun hj => not_mem_singleton_of_state hst ((h.current m j).1 hj).2.1 (by simp)
  · simp only [h.completionNodup.mem_erase_iff, List.mem_singleton]

end

end

end Sys2Proof.Machine

/-!
PROOFS. The law of the transaction table (R5, R31, R33, R46 to R48, R56, R82, R91): what each move keeps of it, and from it O59.
-/
namespace Sys2Proof.Machine

open Sys2Proof.Safety

section
variable {s t u : State}

/-! ### Outcomes, retries and flushes -/

/-- A detached slot whose outcome is decided is DONE on the completion queue, or FREE (R53). -/
theorem decideOutcome_looseLaw {D : List SlotId} {i : SlotId} (h : LooseLaw (i :: D) s) (o : TxOutcome) :
    LooseLaw D (decideOutcome i o s) := by
  cases hf : freedAtOnce (s.slot i) o
  · have horphan : (s.slot i).orphan = false := by
      simp only [freedAtOnce, Bool.or_eq_false_iff] at hf
      exact hf.1.2
    rw [decideOutcome_of_done _ hf]
    exact (looseLaw_done h o horphan).of_eq rfl rfl rfl rfl rfl (fun _ => rfl) fun _ => id
  · rw [decideOutcome_of_freed _ hf]
    exact freeSlots_looseLaw (is := [i]) (s := countOutcome i o s) (h.of_eq rfl rfl rfl rfl rfl (fun _ => rfl) fun _ => id)

theorem foldl_decideOutcome_looseLaw {D is : List SlotId} (h : LooseLaw (is ++ D) s) (o : TxOutcome) :
    LooseLaw D (is.foldl (fun t i => decideOutcome i o t) s) := by
  induction is generalizing s with
  | nil => exact h
  | cons i is ih => exact ih (decideOutcome_looseLaw h o)

theorem judgeFlow_tableLaw (h : TableLaw s) : TableLaw (judgeFlow s) :=
  tableLaw_of_eq h rfl rfl rfl rfl rfl (fun _ => rfl) fun _ => id

/-- An attempt that failed leaves its lane; its slot returns to the queue or its failure is decided (R82). -/
theorem retryOrDecide_tableLaw {l : LaneId} {i : SlotId} (h : TableLaw s) (hi : (s.lane l).current = some i) {e : LaneEngine}
    (he : e.current = none) (hoff : e.state ≠ .off) (o : TxOutcome) (b : CounterBank) (ev : EventUnit) :
    TableLaw (retryOrDecide l i o { s.setLane l e with counters := b, events := ev }) := by
  have hs := tableLaw_iff.1 h
  obtain ⟨-, hst, hlane⟩ := (hs.current l i).1 hi
  have hloose : LooseLaw [i] { s.setLane l e with counters := b, events := ev } :=
    (looseLaw_leaveLane hs hi he hoff).of_eq rfl rfl rfl rfl rfl (fun _ => rfl) fun _ => id
  have hself : (s.setLane l e).lane l = e := by simp
  rcases retryOrDecide_cases { s.setLane l e with counters := b, events := ev } l i o with ⟨eq, hatt, horphan⟩ | eq <;> rw [eq]
  · refine tableLaw_iff.2 ((looseLaw_requeue hloose hlane ?_ ?_ horphan ?_ hatt).of_eq rfl rfl rfl rfl rfl (fun _ => rfl) fun _ => id)
    · have hocc : (s.setLane l e).occupancy l < 16 := by
        have := hs.limit.1 l
        simp only [State.occupancy, hi, Option.isSome_some, if_true] at this
        simp only [State.occupancy, hself, he, State.setLane_queue, Option.isSome_none, Bool.false_eq_true, if_false]
        omega
      exact hocc
    · exact fun hl => hoff (hself ▸ hl)
    · exact Option.not_isSome_iff_eq_none.1 fun ho => absurd (hst.symm.trans ((hs.outcome i).1 ho)) (by simp)
  · exact judgeFlow_tableLaw (tableLaw_iff.2 (decideOutcome_looseLaw hloose o))

theorem contentionAbort_tableLaw (h : TableLaw s) (l : LaneId) : TableLaw (contentionAbort l s) := by
  cases hc : (s.lane l).current with
  | none => rwa [contentionAbort_of_none s hc]
  | some i =>
    rw [contentionAbort_of_current s hc]
    exact retryOrDecide_tableLaw h hc rfl (by simp) .contention _ _

/-- A lane's engine replaced by one with the same current slot, OFF only where it was. -/
theorem setLane_tableLaw (h : TableLaw s) {l : LaneId} {e : LaneEngine} (he : e.current = (s.lane l).current)
    (hoff : e.state = .off → (s.lane l).state = .off) : TableLaw (s.setLane l e) := by
  refine tableLaw_of_eq h rfl rfl rfl rfl rfl (fun m => ?_) fun m => ?_ <;> rw [State.setLane_lane] <;> split
  · next hm => rw [he, hm]
  · rfl
  · next hm => exact hm ▸ hoff
  · exact id

theorem claimActs_tableLaw (h : TableLaw s) (l : LaneId) : TableLaw (claimActs l s) := by
  rcases claimActs_cases s l with ⟨e, -⟩ | ⟨e, -⟩ | ⟨e, -⟩ <;> rw [e]
  · exact h
  · exact setLane_tableLaw h rfl fun hy => absurd hy (by simp [LaneEngine.yield])
  · exact contentionAbort_tableLaw h l

/-- Every slot of a lane leaves it (R52). -/
theorem looseLaw_flush (h : LooseLaw [] s) (l : LaneId) {e : LaneEngine} (he : e.current = none) :
    LooseLaw ((s.lane l).current.toList ++ s.queue l) ((s.setLane l e).setQueue l []) := by
  have hmem : ∀ j, j ∈ (s.lane l).current.toList ++ s.queue l ↔
      ((s.slot j).state = .active ∨ (s.slot j).state = .queued) ∧ (s.slot j).lane = l := by
    intro j
    rw [List.mem_append, Option.mem_toList, h.current, h.mem_queue]
    simp [or_and_right]
  have hn : ((s.lane l).current.toList ++ s.queue l).Nodup := by
    refine List.nodup_append.2 ⟨?_, h.queueNodup l, fun a ha b hb hab => ?_⟩
    · cases (s.lane l).current <;> simp
    · rw [Option.mem_toList, h.current] at ha
      rw [← hab, h.mem_queue] at hb
      exact absurd (ha.2.1.symm.trans hb.2.1) (by simp)
  rw [← List.append_nil ((s.lane l).current.toList ++ s.queue l)]
  refine looseLaw_detach h hn (fun j hj => ⟨by simp, ?_⟩) rfl rfl rfl (fun m => ?_) (fun m j => ?_) (fun m j => ?_) (.refl _) (fun j => ?_)
    fun m hm => ?_
  · rcases ((hmem j).1 hj).1 with hst | hst <;> exact live_of_state hst (by simp)
  · rw [State.setQueue_queue]
    split
    · exact List.nil_sublist _
    · exact .refl _
  · rw [State.setQueue_queue, hmem]
    split
    · next hm => subst hm; rw [h.mem_queue]; simp; tauto
    · next hm =>
      refine iff_and_self.2 fun hj hc => hm ?_
      exact hc.2.symm.trans ((h.mem_queue m j).1 hj).2.2
  · rw [State.setQueue_lane, State.setLane_lane, hmem]
    split
    · next hm => subst hm; rw [h.current]; simp [he]; tauto
    · next hm =>
      refine iff_and_self.2 fun hj hc => hm ?_
      exact hc.2.symm.trans ((h.current m j).1 hj).2.2
  · rw [hmem]
    refine iff_and_self.2 fun hj hc => ?_
    have hd := ((h.mem_completion j).1 hj).2
    rcases hc.1 with hst | hst <;> exact absurd (hst.symm.trans hd) (by simp)
  · rw [State.setQueue_queue]
    by_cases e : l = m
    · exact .inl (if_pos e)
    · right
      rwa [State.setQueue_lane, State.setLane_lane, if_neg e] at hm

theorem stopAndFlush_tableLaw (h : TableLaw s) (l : LaneId) (o : TxOutcome) {e : LaneEngine} (he : e.current = none) :
    TableLaw (stopAndFlush l o e s) := by
  have hs : TableLaw (strayIfShifting l s) := tableLaw_of_eq h (by simp) (by simp) (by simp) (by simp) (by simp)
    (fun m => by rw [lane_of_lanes (strayIfShifting_lanes s l)]) fun m => by rw [lane_of_lanes (strayIfShifting_lanes s l)]; exact id
  have hf := looseLaw_flush (tableLaw_iff.1 hs) l he
  rw [← List.append_nil (_ ++ _)] at hf
  exact judgeFlow_tableLaw (tableLaw_iff.2 (foldl_decideOutcome_looseLaw hf o))

/-! ### Admission -/

/-- What a request that passed every check has met (R24 to R34). -/
theorem judgeEntry_ok {f : InFrame} {k : RouteId} {d : Demand} (hk : lookup (f.labels.headD 0) s = some k) (h : judgeEntry f k s = .ok d) :
    d.route = k ∧ (s.route k).state = .opened ∧ (s.slot d.slot).state = .free ∧
    (∀ j, (s.slot j).live = true → (s.slot j).source = f.source → (s.slot j).sequence ≠ f.sequence) ∧
    s.occupancy (s.route k).config.lane < 16 ∧ (s.lane (s.route k).config.lane).state ≠ .off ∧
    cellsNeeded (wordBytes (s.route k).config.wordSize) d.writeCount d.readCount ≤ s.freeCells := by
  obtain ⟨hnone, hlow, hroute, hw, hr⟩ := (judgeEntry_eq hk).2 d h
  have hall : ∀ c ∈ admissionChecks f (some k) s, ¬c.1 = true := by
    rw [firstRefusal, hk, Option.map_eq_none_iff, List.find?_eq_none] at hnone
    exact hnone
  simp only [admissionChecks, List.forall_mem_cons, decide_eq_true_eq, Option.getD_some] at hall
  obtain ⟨-, hclosed, hdraining, -, -, -, -, -, hpair, -, hoff, hfull, hcells, -⟩ := hall
  have hempty := (lookup_some hk).1
  refine ⟨hroute, ?_, (lowestFree_some hlow).1, fun j hj hs hq => hpair ⟨j, by simpa [Slot.live] using hj, hs, hq⟩, by omega, hoff, ?_⟩
  · cases hst : (s.route k).state with
    | opened => rfl
    | closed => exact absurd hst hclosed
    | draining => exact absurd hst hdraining
    | empty => exact absurd hst hempty
  · rw [hw, hr]; omega

/-- A FREE slot takes cells of the pool for a transaction of an OPEN entry, and is on no queue yet (R37). -/
theorem looseLaw_reserve (h : LooseLaw [] s) {i : SlotId} {k : RouteId} {x : Slot} (hfree : (s.slot i).state = .free)
    (hopen : (s.route k).state = .opened) (hstate : x.state = .queued) (hroute : x.route = k) (hlane : x.lane = (s.route k).config.lane)
    (hlen : x.cells.length = cellsNeeded x.wordBytes x.writeCount x.readCount) (hneed : x.cells.length ≤ s.freeCells)
    (hnodup : x.cells.Nodup) (hcells : ∀ c ∈ x.cells, c < 1024 ∧ c ∉ reservedCells s) (hatt : x.attempts = 0)
    (hout : x.outcome = none) (horphan : x.orphan = false)
    (hpair : ∀ j, (s.slot j).live = true → (s.slot j).source = x.source → (s.slot j).sequence ≠ x.sequence) :
    LooseLaw [i] { (s.setRoute k { s.route k with inUse := (s.route k).inUse + 1 }).setSlot i x with
      freeCells := s.freeCells - x.cells.length } := by
  set v := (s.setRoute k { s.route k with inUse := (s.route k).inUse + 1 }).setSlot i x with hv
  set t : State := { v with freeCells := s.freeCells - x.cells.length } with ht
  have hself : t.slot i = x := (State.setSlot_slot ..).trans (if_pos rfl)
  have hother : ∀ j, j ≠ i → t.slot j = s.slot j := fun j hj => (State.setSlot_slot ..).trans (if_neg (Ne.symm hj))
  have hfreed : s.slot i = Slot.freed := h.free i hfree
  have hn : [i].Nodup := List.nodup_singleton i
  have hrest : ∀ {j}, j ∈ (List.finRange 64).filter (fun j => j ∉ [i]) → t.slot j = s.slot j := fun {j} hj =>
    hother j (by simpa using of_decide_eq_true (List.mem_filter.1 hj).2)
  have hcfg : ∀ r, (t.route r).config = (s.route r).config := fun r => by
    change ((s.setRoute k _).route r).config = _
    rw [State.setRoute_route]; split
    · next e => rw [← e]
    · rfl
  have hcells' : (reservedCells t).Perm (x.cells ++ reservedCells s) := by
    have hp := reservedCells_perm s hn
    have hp' := reservedCells_perm t hn
    have hsame : (((List.finRange 64).filter fun j => j ∉ [i]).flatMap fun j => (t.slot j).cells) =
        ((List.finRange 64).filter fun j => j ∉ [i]).flatMap fun j => (s.slot j).cells :=
      List.flatMap_congr fun j hj => by rw [hrest hj]
    rw [hsame] at hp'
    simp only [List.flatMap_cons, List.flatMap_nil, List.append_nil, hself, hfreed, Slot.freed, List.nil_append] at hp hp'
    exact hp'.trans (hp.symm.append_left _)
  have hnaming : ∀ r, liveNaming t r = liveNaming s r + if r = k then 1 else 0 := fun r => by
    have hsplit : (((List.finRange 64).filter fun j => j ∉ [i]).filter fun j => (t.slot j).live && (t.slot j).route == r) =
        ((List.finRange 64).filter fun j => j ∉ [i]).filter fun j => (s.slot j).live && (s.slot j).route == r :=
      List.filter_congr fun j hj => by rw [hrest hj]
    rw [liveNaming_split t r hn, liveNaming_split s r hn, hsplit]
    have hx : x.live = true := live_of_state hstate (by simp)
    by_cases e : r = k
    · simp [hself, hfreed, Slot.freed, Slot.live, hstate, hroute, e, Nat.add_comm]
    · simp [hself, hfreed, Slot.freed, Slot.live, hroute, e, Ne.symm e]
  obtain ⟨p1, p2, p3, p4⟩ := h.pool
  obtain ⟨u1, u2, u3⟩ := h.inUse
  obtain ⟨k1, k2, k3, k4, k5, k6⟩ := h.limit
  have hinUse : ∀ r, (t.route r).inUse = (s.route r).inUse + (if r = k then 1 else 0) ∧ (t.route r).state = (s.route r).state := fun r => by
    change ((s.setRoute k _).route r).inUse = _ ∧ ((s.setRoute k _).route r).state = _
    rw [State.setRoute_route]
    by_cases e : k = r
    · subst e; simp
    · simp [e, Ne.symm e]
  have hroutes : ∀ j, j ≠ i → t.slotRoute j = s.slotRoute j := fun j hj => by simp only [State.slotRoute, hother j hj, hcfg]
  have hpool : PoolLaw t := by
    refine ⟨?_, hcells'.nodup_iff.2 (List.nodup_append.2 ⟨hnodup, p2, fun a ha b hb e => (hcells a ha).2 (e ▸ hb)⟩), fun c hc => ?_, fun j => ?_⟩
    · rw [hcells'.length_eq, List.length_append]
      change s.freeCells - x.cells.length + _ = _
      omega
    · rcases List.mem_append.1 (hcells'.mem_iff.1 hc) with hc | hc
      · exact (hcells c hc).1
      · exact p3 c hc
    · by_cases e : j = i
      · subst e; rw [hself]; exact hlen
      · rw [hother j e]; exact p4 j
  have huse : InUseLaw t := by
    refine ⟨fun r => ?_, fun r hr => ?_, fun r hr => ?_⟩
    · rw [(hinUse r).1, hnaming, u1]
    · rw [(hinUse r).2]
      by_cases e : r = k
      · exact .inl (e ▸ hopen)
      · rw [(hinUse r).1, if_neg e] at hr; exact u2 r hr
    · rw [(hinUse r).2] at hr
      rw [(hinUse r).1]
      exact Nat.lt_of_lt_of_le (u3 r hr) (Nat.le_add_right ..)
  have hlimit : LimitLaw t := by
    refine ⟨k1, k2, fun a b ha hb hs hq => ?_, fun j hj => ?_, fun j hj => ?_, fun j hj => ?_⟩
    · by_cases ea : a = i <;> by_cases eb : b = i
      · exact ea.trans eb.symm
      · rw [ea, hself, hother b eb] at hs hq; rw [hother b eb] at hb; exact absurd hq.symm (hpair b hb hs.symm)
      · rw [eb, hself, hother a ea] at hs hq; rw [hother a ea] at ha; exact absurd hq (hpair a ha hs)
      · rw [hother a ea] at ha hs hq; rw [hother b eb] at hb hs hq; exact k3 a b ha hb hs hq
    · by_cases e : j = i
      · subst e; rw [hself, State.slotRoute, hself, hcfg, hroute]; exact hlane
      · rw [hroutes j e]; rw [hother j e] at hj ⊢; exact k4 j hj
    · by_cases e : j = i
      · subst e; rw [hself, hatt]; exact Nat.zero_le _
      · rw [hroutes j e]; rw [hother j e] at hj ⊢; exact k5 j hj
    · by_cases e : j = i
      · subst e; rw [hself, hatt]; exact Nat.zero_le _
      · rw [hroutes j e]; rw [hother j e] at hj ⊢; exact k6 j hj
  refine ⟨hn, fun j hj => ?_, fun j hj => ?_, h.queueNodup, fun l j => (h.mem_queue l j).trans ?_, fun l j => (h.current l j).trans ?_,
    h.completionNodup, fun j => (h.mem_completion j).trans ?_, fun j => ?_, fun j hj => ?_, hpool, huse, hlimit⟩
  all_goals by_cases e : j = i
  · subst e; rw [hself]; exact live_of_state hstate (by simp)
  · exact absurd (List.mem_singleton.1 hj) e
  · subst e; rw [hself, hstate] at hj; exact absurd hj (by simp)
  · rw [hother j e] at hj ⊢; exact h.free j hj
  · subst e; simp [hfree]
  · simp [hother j e, e]
  · subst e; simp [hfree]
  · simp [hother j e, e]
  · subst e; simp [hfree]
  · simp [hother j e, e]
  · subst e; simp [hself, hstate, hout]
  · rw [hother j e]; exact h.outcome j
  · subst e; rw [hself, horphan] at hj; exact absurd hj (by simp)
  · rw [hother j e] at hj ⊢; exact h.orphan j hj

/-- A lane's occupancy changes by the length of its queue (R33). -/
theorem occupancy_setQueue (s : State) (l : LaneId) (q : List SlotId) :
    (s.setQueue l q).occupancy l + (s.queue l).length = s.occupancy l + q.length := by
  have hq : (s.setQueue l q).queue l = q := by simp
  rw [State.occupancy, State.occupancy, hq, State.setQueue_lane]
  omega

/-- An admitted request makes its slot QUEUED at the tail of its lane's queue (R37, R38). -/
theorem admitRequest_tableLaw (h : TableLaw s) {f : InFrame} {k : RouteId} {d : Demand} (hk : lookup (f.labels.headD 0) s = some k)
    (hd : judgeEntry f k s = .ok d) : TableLaw (admitRequest f d s) := by
  have hs := tableLaw_iff.1 h
  obtain ⟨rfl, hopen, hfree, hpair, hocc, hoff, hneed⟩ := judgeEntry_ok hk hd
  set g := (s.route d.route).config with hg
  set need := cellsNeeded (wordBytes g.wordSize) d.writeCount d.readCount with hneedDef
  set cells := pickCells need s.draws (freeCellList s)
  set x := admittedSlot f d cells g with hx
  obtain ⟨hlen, hnodup, hmem⟩ := pickCells_spec need s.draws (freeCellList s) freeCellList_nodup
    (by rw [freeCellList_length hs.pool]; exact hneed)
  have hxlen : x.cells.length = need := hlen
  have hloose := looseLaw_reserve hs (i := d.slot) (k := d.route) (x := x) hfree hopen rfl rfl rfl hlen (hlen ▸ hneed) hnodup
    (fun c hc => mem_freeCellList.1 (hmem c hc)) rfl rfl rfl hpair
  set v : State := { (s.setRoute d.route { s.route d.route with inUse := (s.route d.route).inUse + 1 }).setSlot d.slot x with
    freeCells := s.freeCells - x.cells.length } with hv
  have hself : v.slot d.slot = x := (State.setSlot_slot ..).trans (if_pos rfl)
  have hnew : d.slot ∉ s.queue g.lane := fun hm => by
    exact absurd (((hs.mem_queue g.lane d.slot).1 hm).2.1.symm.trans hfree) (by simp)
  obtain ⟨hoccs, hoffs, -⟩ := hs.limit
  have hplaced : Placed d.slot x v (v.setQueue g.lane (s.queue g.lane ++ [d.slot])) := {
    self := hself
    other := fun _ _ => rfl
    alike := hself ▸ .refl x
    queueNodup := fun m => by
      rw [State.setQueue_queue]
      split
      · exact List.nodup_append.2 ⟨hs.queueNodup g.lane, List.nodup_singleton _, fun a ha b hb e => hnew (List.mem_singleton.1 hb ▸ e ▸ ha)⟩
      · exact hs.queueNodup m
    mem_queue := fun m j => by
      have hqv : v.queue m = s.queue m := rfl
      have hxl : x.lane = g.lane := rfl
      have hxs : x.state = .queued := rfl
      rw [State.setQueue_queue, hqv, hxl]
      split
      · next e => subst e; simp [hxs]
      · next e => simp [e]
    current := fun m j => by simp [hx, admittedSlot]
    completionNodup := hs.completionNodup
    mem_completion := by simp [hx, admittedSlot]
    outcome := by simp [hx, admittedSlot]
    orphan := by simp [hx, admittedSlot]
    routes := rfl
    freeCells := rfl
    occupancy := fun m => by
      by_cases e : g.lane = m
      · subst e
        have hv' := occupancy_setQueue v g.lane (s.queue g.lane ++ [d.slot])
        rw [show v.occupancy g.lane = s.occupancy g.lane from rfl, show v.queue g.lane = s.queue g.lane from rfl, List.length_append,
          List.length_singleton] at hv'
        omega
      · exact le_of_eq_of_le (occupancy_congr (s := s) (by rw [State.setQueue_queue, if_neg e]; rfl) rfl) (hoccs m)
    off := fun m hm => by
      have e : g.lane ≠ m := fun e => hoff (e ▸ hm)
      rw [State.setQueue_queue, if_neg e]
      exact hoffs m hm
    queued := fun _ => Nat.zero_le _
    attempts := Nat.zero_le _ }
  refine judgeFlow_tableLaw (tableLaw_iff.2 ((hplaced.looseLaw hloose).of_eq rfl rfl rfl rfl ?_ (fun _ => rfl) fun _ => id))
  change s.freeCells - need = s.freeCells - x.cells.length
  rw [hxlen]

theorem withdrawSlot_tableLaw (h : TableLaw s) {i : SlotId} (hi : (s.slot i).state = .queued) : TableLaw (withdrawSlot i s) := by
  have hs := tableLaw_iff.1 h
  have hmem : i ∈ s.queue (s.slot i).lane := (hs.mem_queue _ i).2 ⟨by simp, hi, rfl⟩
  have hleft := looseLaw_leaveQueue hs hmem
  have hslot : ∀ j, (s.setSlot i { s.slot i with responseWanted := true }).slot j =
      { s.slot j with responseWanted := if i = j then true else (s.slot j).responseWanted } := fun j => by
    rw [State.setSlot_slot]
    split
    · next e => rw [e]
    · rfl
  have hloose : LooseLaw [i] ((s.setSlot i { s.slot i with responseWanted := true }).setQueue (s.slot i).lane
      ((s.queue (s.slot i).lane).erase i)) := by
    refine hleft.of_alike (fun j => ?_) (fun j => ?_) (fun j => ?_) (fun j => ?_) (fun j hj => ?_) (fun j hj => ?_) rfl rfl rfl rfl
      (fun _ => rfl) fun _ => id
    · rw [State.setQueue_slot, hslot]; exact ⟨rfl, rfl, rfl, rfl, rfl, rfl, rfl⟩
    · rw [State.setQueue_slot, hslot]; rfl
    · rw [State.setQueue_slot, hslot]; rfl
    · rw [State.setQueue_slot, hslot]; rfl
    · rw [State.setQueue_slot, hslot] at hj; exact hs.orphan j hj
    · rw [State.setQueue_slot] at hj
      have e : i ≠ j := fun e => absurd (hi.symm.trans (e ▸ hj)) (by simp)
      rw [State.setQueue_slot, hslot, if_neg e]; rfl
  exact judgeFlow_tableLaw (tableLaw_iff.2 (decideOutcome_looseLaw hloose .cancelled))

theorem judgeWaiting_tableLaw (h : TableLaw s) (w : WaitingFrame) : TableLaw (judgeWaiting w s) := by
  rcases judgeWaiting_cases s w with e | ⟨r, b, e⟩ | ⟨k, d, hk, hd, e⟩ | ⟨i, hi, e⟩ <;> rw [e]
  · exact h
  · exact tableLaw_of_eq h (by simp) (by simp) (by simp) (by simp) (by simp) (fun l => by rw [lane_of_lanes (addRecord_lanes ..)]; rfl)
      fun l => by rw [lane_of_lanes (addRecord_lanes ..)]; exact id
  · exact admitRequest_tableLaw h hk hd
  · exact withdrawSlot_tableLaw h hi

theorem admitNext_tableLaw (h : TableLaw s) : TableLaw (admitNext s) := by
  rcases admitNext_cases s with ⟨e, -⟩ | ⟨w, rest, -, e⟩ <;> rw [e]
  · exact h
  · exact judgeWaiting_tableLaw (s := { s with receiver := { s.receiver with admission := rest } }) h w

theorem judgeReception_tableLaw (h : TableLaw s) (r : Reception) : TableLaw (judgeReception r s) := by
  obtain ⟨b, e | ⟨c, e⟩ | ⟨f, k, e⟩ | ⟨q, -, e⟩ | ⟨n, -, -, e⟩⟩ := judgeReception_cases s r <;> rw [e] <;> exact h

/-! ### The ends of frames and the link -/

/-- The end of a slot's frame frees the head of the completion queue (R58). -/
theorem completeRequester_tableLaw (h : TableLaw s) {q : Requester} (hq : ∀ i, q = .slot i → i ∈ s.completion) :
    TableLaw (completeRequester q s) := by
  cases q <;> unfold completeRequester
  case event => dsimp only; split <;> exact h
  case slot i =>
    exact judgeFlow_tableLaw (tableLaw_iff.2 (freeSlots_looseLaw (is := [i]) (looseLaw_leaveCompletion (tableLaw_iff.1 h) (hq i rfl))))
  all_goals exact h

theorem grant_tableLaw (h : TableLaw s) (c : Choice) : TableLaw (grant c s) := by
  cases c <;> unfold grant <;> dsimp only <;> split <;> exact h

/-- At link down the ACTIVE slots are marked orphan (R60). -/
def markOrphan (x : Slot) : Slot := if x.state = .active then { x with orphan := true } else x

theorem markOrphan_eq (x : Slot) : markOrphan x = { x with orphan := (markOrphan x).orphan } := by
  unfold markOrphan; split <;> rfl

theorem markOrphan_alike (x : Slot) : (markOrphan x).Alike x := by
  rw [markOrphan_eq]; exact ⟨rfl, rfl, rfl, rfl, rfl, rfl, rfl⟩

theorem looseLaw_markOrphan (h : LooseLaw [] s) : LooseLaw [] { s with slots := s.slots.map markOrphan } := by
  have hslot : ∀ i, State.slot { s with slots := s.slots.map markOrphan } i = markOrphan (s.slot i) := fun i => by simp [State.slot]
  refine h.of_alike (fun i => ?_) (fun i => ?_) (fun i => ?_) (fun i => ?_) (fun i hi => ?_) (fun i hi => ?_) rfl rfl rfl rfl (fun _ => rfl)
    fun _ => id
  · rw [hslot]; exact markOrphan_alike _
  · rw [hslot, markOrphan_eq]
  · rw [hslot, markOrphan_eq]
  · rw [hslot, markOrphan_eq]
  · rw [hslot] at hi
    unfold markOrphan at hi
    split at hi
    · assumption
    · exact h.orphan i hi
  · rw [hslot, markOrphan, if_neg (by simp [hi])]

theorem mem_slotsIn {st : SlotState} {i : SlotId} : i ∈ slotsIn st s ↔ (s.slot i).state = st := by
  simp [slotsIn]

/-- The slots that the link-down event frees, off their queues (R60, R61). -/
theorem looseLaw_linkDown (h : LooseLaw [] s) (b : CounterBank) :
    LooseLaw (slotsIn .queued s ++ slotsIn .done s)
      { s with counters := b, slots := s.slots.map markOrphan, queues := Vector.replicate 8 [], completion := [] } := by
  have hq : ∀ l, State.queue { s with counters := b, slots := s.slots.map markOrphan, queues := Vector.replicate 8 [], completion := [] } l =
      [] := fun l => by simp [State.queue]
  have hmem : ∀ {j}, j ∈ slotsIn .queued s ++ slotsIn .done s → (s.slot j).state = .queued ∨ (s.slot j).state = .done := fun {j} hj => by
    rwa [List.mem_append, mem_slotsIn, mem_slotsIn] at hj
  have hn : (slotsIn .queued s ++ slotsIn .done s).Nodup := by
    refine List.nodup_append.2 ⟨(List.nodup_finRange 64).filter _, (List.nodup_finRange 64).filter _, fun a ha c hc e => ?_⟩
    exact absurd ((mem_slotsIn.1 ha).symm.trans (e ▸ mem_slotsIn.1 hc)) (by simp)
  rw [← List.append_nil (slotsIn .queued s ++ slotsIn .done s)]
  have hlive : ∀ j, (s.slot j).state = .queued ∨ (s.slot j).state = .done → (s.slot j).live = true := fun j hj => by
    rcases hj with e | e <;> exact live_of_state e (by simp)
  refine looseLaw_detach (looseLaw_markOrphan h) hn (fun j hj => ⟨by simp, ?_⟩) rfl rfl rfl (fun l => ?_) (fun l j => ?_) (fun l j => ?_)
    (List.nil_sublist _) (fun j => ?_) fun l _ => .inl (hq l)
  · have hslot : State.slot { s with slots := s.slots.map markOrphan } j = markOrphan (s.slot j) := by simp [State.slot]
    rw [hslot, (markOrphan_alike _).live]; exact hlive j (hmem hj)
  · rw [hq]; exact List.nil_sublist _
  · rw [hq]
    refine iff_of_false List.not_mem_nil fun hj => hj.1 (List.mem_append_left _ (mem_slotsIn.2 ?_))
    exact ((h.mem_queue l j).1 hj.2).2.1
  · refine iff_and_self.2 fun hj hm => ?_
    have hst := ((h.current l j).1 hj).2.1
    rcases hmem hm with e | e <;> exact absurd (hst.symm.trans e) (by simp)
  · refine iff_of_false List.not_mem_nil fun hj => hj.1 (List.mem_append_right _ (mem_slotsIn.2 ?_))
    exact ((h.mem_completion j).1 hj.2).2

theorem tableLinkDown_tableLaw (h : TableLaw s) : TableLaw (tableLinkDown s) := by
  have hl := looseLaw_linkDown (tableLaw_iff.1 h)
  unfold tableLinkDown
  dsimp only
  rw [foldl_countOutcome_eq]
  refine tableLaw_iff.2 (freeSlots_looseLaw ?_)
  rw [List.append_nil]
  exact hl _

theorem linkDownState_tableLaw (h : TableLaw s) : TableLaw (linkDownState s) := by
  have hu : TableLaw (linkDownStart s) := h
  have ht := tableLinkDown_tableLaw hu
  have hlanes : (linkDownState s).lanes = (tableLinkDown (linkDownStart s)).lanes := by simp [linkDownState, flowLinkDown, judgeLevels]
  exact tableLaw_of_eq ht (by simp [linkDownState, flowLinkDown, judgeLevels]) (by simp [linkDownState, flowLinkDown, judgeLevels])
    (by simp [linkDownState, flowLinkDown, judgeLevels]) (by simp [linkDownState, flowLinkDown, judgeLevels])
    (by simp [linkDownState, flowLinkDown, judgeLevels]) (fun l => by rw [lane_of_lanes hlanes]) fun l => by rw [lane_of_lanes hlanes]; exact id

/-! ### The operations on entries and the resets -/

/-- An entry that no slot names may take any configuration; another keeps its own (R13, R14, R18). -/
theorem setRoute_tableLaw (h : TableLaw s) {r : RouteId} {e : RouteEntry} (hu : e.inUse = (s.route r).inUse)
    (hused : 0 < e.inUse → e.state = .opened ∨ e.state = .draining) (hdrain : e.state = .draining → 0 < e.inUse)
    (hc : e.config = (s.route r).config ∨ (s.route r).inUse = 0) : TableLaw (s.setRoute r e) := by
  obtain ⟨hs, hp, ⟨u1, u2, u3⟩, ⟨k1, k2, k3, k4, k5, k6⟩⟩ := h
  have hinUse : ∀ k, ((s.setRoute r e).route k).inUse = (s.route k).inUse := fun k => by
    rw [State.setRoute_route]; split
    · next hk => rw [hu, hk]
    · rfl
  have hcfg : ∀ i, (s.slot i).live = true → (s.setRoute r e).slotRoute i = s.slotRoute i := fun i hi => by
    simp only [State.slotRoute, State.setRoute_slot, State.setRoute_route]
    split
    · next hr =>
      rcases hc with hc | hc
      · rw [hc, hr]
      · rw [u1 r, liveNaming, List.length_eq_zero_iff, List.filter_eq_nil_iff] at hc
        exact absurd (by simp [hi, hr]) (hc i (List.mem_finRange i))
    · rfl
  have hslots : ∀ i, ((s.setRoute r e).slot i).Alike (s.slot i) := fun _ => .refl _
  refine ⟨hs, poolLaw_of_alike hp hslots rfl, ⟨fun k => ?_, fun k => ?_, fun k => ?_⟩, k1, k2, k3, fun i hi => ?_, fun i hi => ?_, fun i hi => ?_⟩
  · rw [hinUse, liveNaming_of_alike hslots]; exact u1 k
  · rw [State.setRoute_route]; split
    · exact hused
    · exact u2 k
  · rw [State.setRoute_route]; split
    · exact hdrain
    · exact u3 k
  · rw [hcfg i hi]; exact k4 i hi
  · rw [hcfg i (live_of_state hi (by simp))]; exact k5 i hi
  · rw [hcfg i hi]; exact k6 i hi

/-- An entry neither OPEN nor DRAINING is named by no slot (R5). -/
theorem inUse_eq_zero (h : TableLaw s) {r : RouteId} (ho : (s.route r).state ≠ .opened) (hd : (s.route r).state ≠ .draining) :
    (s.route r).inUse = 0 := by
  obtain ⟨-, -, ⟨-, hused, -⟩, -⟩ := h
  by_contra hne
  rcases hused r (Nat.pos_of_ne_zero hne) with e | e
  · exact ho e
  · exact hd e

/-- The tables with every slot FREE, every collection empty and every entry EMPTY obey their law (R63). -/
theorem tableLaw_of_empty (hr : ∀ r, s.route r = .powerOn) (hs : ∀ i, s.slot i = Slot.freed) (hq : ∀ l, s.queue l = [])
    (hd : s.completion = []) (hc : s.freeCells = 1024) (hcur : ∀ l, (s.lane l).current = none) : TableLaw s := by
  have hcells : reservedCells s = [] := by simp [reservedCells, hs, Slot.freed]
  have hlive : ∀ i, (s.slot i).live = false := fun i => by rw [hs]; rfl
  have hnaming : ∀ r, liveNaming s r = 0 := fun r => by simp [liveNaming, hlive]
  refine ⟨⟨fun i _ => hs i, by simp [hq], ?_, ?_, by simp [hd], ?_, ?_, ?_⟩, ⟨by simp [hcells, hc], by simp [hcells], by simp [hcells], ?_⟩,
    ⟨?_, ?_, ?_⟩, ⟨fun l => by rw [occupancy_empty (hq l) (hcur l)]; exact Nat.zero_le _, fun l _ => hq l, ?_, ?_, ?_, ?_⟩⟩
  · simp [hq, hs, Slot.freed]
  · simp [hcur, hs, Slot.freed]
  · simp [hd, hs, Slot.freed]
  · simp [hs, Slot.freed]
  · simp [hs, Slot.freed]
  · intro i; rw [hs]; rfl
  · simp [hr, RouteEntry.powerOn, hnaming]
  · simp [hr, RouteEntry.powerOn]
  · simp [hr, RouteEntry.powerOn]
  · simp [hlive]
  · simp [hlive]
  · simp [hs, Slot.freed]
  · simp [hlive]

/-! ### The moves -/

theorem enterIdle_state_ne_off (e : LaneEngine) : e.enterIdle.state ≠ .off := by
  unfold LaneEngine.enterIdle
  dsimp only
  split <;> simp

theorem enterGap_state_ne_off (e : LaneEngine) : e.enterGap.state ≠ .off := by
  unfold LaneEngine.enterGap
  split
  · exact enterIdle_state_ne_off e
  · simp

theorem start_state_ne_off (e : LaneEngine) (i : SlotId) (g : RouteConfig) (ready : Bool) : (e.start i g ready).state ≠ .off := by
  unfold LaneEngine.start
  dsimp only
  split <;> simp

theorem managed_tableLaw {src : Source} (h : TableLaw s) (hm : Managed src s u) : TableLaw u := by
  cases hm
  case write r g hst _ _ =>
    have hz : (s.route r).inUse = 0 := inUse_eq_zero h (by rcases hst with e | e <;> simp [e]) (by rcases hst with e | e <;> simp [e])
    exact setRoute_tableLaw h rfl (by simp [hz]) (by simp) (.inr hz)
  case opened r hst =>
    have hz : (s.route r).inUse = 0 := inUse_eq_zero h (by simp [hst]) (by simp [hst])
    exact setRoute_tableLaw h rfl (by simp) (by simp) (.inl rfl)
  case drained r hst hz =>
    exact setRoute_tableLaw (e := { s.route r with state := .closed }) h rfl (by simp [hz]) (by simp) (.inl rfl)
  case draining r hst hz => exact setRoute_tableLaw h rfl (by simp) (fun _ => Nat.pos_of_ne_zero hz) (.inl rfl)
  case deleted r hst =>
    have hz : (s.route r).inUse = 0 := inUse_eq_zero h (by simp [hst]) (by simp [hst])
    exact setRoute_tableLaw h hz.symm (by simp [RouteEntry.powerOn]) (by simp [RouteEntry.powerOn]) (.inr hz)
  case laneOn l watch gap _ => exact setLane_tableLaw h rfl fun ho => absurd ho (enterIdle_state_ne_off _)
  case laneClaimed l gap _ _ _ =>
    have hs : TableLaw (strayIfShifting l s) := tableLaw_of_eq h (by simp) (by simp) (by simp) (by simp) (by simp)
      (fun m => by rw [lane_of_lanes (strayIfShifting_lanes s l)]) fun m => by rw [lane_of_lanes (strayIfShifting_lanes s l)]; exact id
    exact claimActs_tableLaw (setLane_tableLaw hs (by rw [lane_of_lanes (strayIfShifting_lanes s l)])
      (by rw [lane_of_lanes (strayIfShifting_lanes s l)]; exact id)) l
  case laneUnwatched l gap _ _ => exact setLane_tableLaw h rfl fun ho => absurd ho (enterIdle_state_ne_off _)
  case laneSettings l watch gap _ _ => exact setLane_tableLaw h rfl id
  case laneOff l watch gap _ => exact stopAndFlush_tableLaw h l .laneOff rfl
  case laneOffSettings l watch gap _ => exact setLane_tableLaw h rfl id
  case laneReset l _ => exact stopAndFlush_tableLaw h l .laneReset rfl
  case cleared t => cases t <;> exact h
  case reset =>
    exact tableLaw_of_empty (deviceReset_route s) (deviceReset_slot s) (deviceReset_queue s) (deviceReset_completion s)
      (deviceReset_freeCells s) (by simp [LaneEngine.powerOn])
  all_goals exact h

theorem move_tableLaw (h : TableLaw s) (hlane : LaneLaw s) (hout : OutputLaw s) (hm : Move True s t) : TableLaw t := by
  cases hm
  case tick => exact tableLaw_of_eq h rfl rfl rfl rfl rfl (fun l => by simp [tick, State.lane]) fun l => by simp [tick, State.lane]
  case powerOn => exact tableLaw_of_empty (powerOn_route s) (powerOn_slot s) (powerOn_queue s) rfl rfl (by simp [LaneEngine.powerOn])
  case linkDown => exact linkDownState_tableLaw h
  case frameTaken r r' _ =>
    have ha : TableLaw (admitAll s) := admitAll_induction (P := TableLaw) (fun _ => admitNext_tableLaw) h
    exact judgeReception_tableLaw (s := endReception (admitAll s)) ha r'
  case admitted => exact admitNext_tableLaw h
  case attempt l i rest ready hidle _ hq =>
    have hs := tableLaw_iff.1 h
    have hmem : i ∈ s.queue l := by simp [hq]
    obtain ⟨-, hst, hl⟩ := (hs.mem_queue l i).1 hmem
    have hleft := looseLaw_leaveQueue hs hmem
    rw [hq, List.erase_cons_head] at hleft
    have hnone := (EngineLaw.no_attempt (hlane l) (by simp [hidle]) (by simp [hidle])).1
    have hlen : ((s.setQueue l rest).queue l).length < 16 := by
      have hocc := hs.limit.1 l
      simp only [State.occupancy, hq, List.length_cons] at hocc
      simp only [State.setQueue_queue, if_pos]
      omega
    have hnout : (s.slot i).outcome = none :=
      Option.not_isSome_iff_eq_none.1 fun ho => absurd (hst.symm.trans ((hs.outcome i).1 ho)) (by simp)
    obtain ⟨-, -, -, -, hatt, -⟩ := hs.limit
    exact tableLaw_iff.2 (looseLaw_start hleft hl (start_current ..) hnone (start_state_ne_off _ _ _ _) hlen hnout (hatt i hst))
  case readyInput l => exact setLane_tableLaw h rfl id
  case readyStart l i _ _ => exact setLane_tableLaw h rfl (by simp)
  case readyTimeout l i _ hi => exact retryOrDecide_tableLaw h hi (enterGap_current _) (enterGap_state_ne_off _) .readyTimeout _ _
  case lastWord l i din _ hi =>
    have hs : TableLaw (storeCaptured i din (capturedWords (s.slot i)) s) := h
    exact judgeFlow_tableLaw (tableLaw_iff.2 (decideOutcome_looseLaw
      (looseLaw_leaveLane (tableLaw_iff.1 hs) hi (enterGap_current _) (enterGap_state_ne_off _)) .ok))
  case gapEnd l _ => exact setLane_tableLaw h rfl fun ho => absurd ho (enterIdle_state_ne_off _)
  case claimInput l _ => exact setLane_tableLaw h rfl id
  case claim l din _ =>
    have hs : TableLaw (s.setLane l { s.lane l with claimIn := true }) := setLane_tableLaw h rfl id
    refine claimActs_tableLaw (tableLaw_of_eq hs (by simp) (by simp) (by simp) (by simp) (by simp) (fun m => ?_) fun m => ?_) l <;>
      rw [lane_of_lanes (captureUntilClaim_lanes ..)]
    exact id
  case claimEnd l _ => exact setLane_tableLaw h rfl fun ho => absurd ho (enterIdle_state_ne_off _)
  case claimReleased l _ => exact setLane_tableLaw h rfl id
  case granted c _ _ _ => exact grant_tableLaw h c
  case frameEnd f hf =>
    obtain ⟨-, -, hhead⟩ := hout
    refine completeRequester_tableLaw
      (s := bumpDevice .framesSent 1 { s with trans := { s.trans with output := none, lastMark := .stop } }) h fun i hi => ?_
    exact List.mem_of_mem_head? (hhead i (by simp [sendingSlot, hf, hi]))
  case managed q rest u v r hq hm hv =>
    have hu : TableLaw u := managed_tableLaw (s := taken s rest) h hm
    rcases hv with rfl | rfl
    · exact hu
    · unfold restartLease
      split <;> exact hu
  all_goals exact h

end

/-- Settles O59: every move that takes a slot off a collection places it again or frees it, with its cells and its count. -/
theorem tableLawKept : Obligations.TableLawKept :=
  fun _ _ hs hl ho h => step_keeps (P := fun s => TableLaw s ∧ LaneLaw s ∧ OutputLaw s) (fun _ _ h => h) (fun _ _ h => h)
    (fun _ _ hp hm => move_tableLaw hp.1 hp.2.1 hp.2.2 hm) ⟨hs, hl, ho⟩ h

theorem State.reset_lane (l : LaneId) : State.reset.lane l = .powerOn := by
  simp [State.lane, State.reset]

/-- Settles O60, each law from its lemma about power-on values. -/
theorem lawsAtReset : Obligations.LawsAtReset :=
  ⟨⟨.nil, by simp [State.reset]⟩, labelLaw_of_empty fun r => by rw [State.reset_route]; rfl,
    fun l => by rw [State.reset_lane]; exact engineLaw_powerOn false false, agentLaw_powerOn rfl rfl rfl,
    eventLaw_iff.2 ⟨by simp [EventUnit.Steady, State.reset, EventUnit.powerOn], by simp [EventUnit.Settled, State.reset, EventUnit.powerOn]⟩,
    outputLaw_of_free rfl (fun _ => rfl) (Nat.zero_le 1),
    flowLaw_powerOn rfl rfl fun l => occupancy_empty (State.reset_queue l) (by rw [State.reset_lane]; rfl),
    tableLaw_of_empty State.reset_route State.reset_slot State.reset_queue rfl rfl fun l => by rw [State.reset_lane]; rfl⟩

end Sys2Proof.Machine

/-!
PROOFS. The step itself, the resets and synchronisation, and the events that one block brings about alone: O1, O2, O3, O5, O6, O10, O14, O16,
O18, O23, O28, O29, O31.
-/
namespace Sys2Proof.Machine

open Sys2Proof.Safety

/-! ### The step -/

section
variable {s t u : State}

/-- Settles O1, by the step's own case of a waiting command. -/
theorem stepRunsFrontCommand : Obligations.StepRunsFrontCommand := by
  intro c s rest h
  unfold step
  rw [h]

/-- A timer kept as a number counts down as one kept as an option does; at 0 it is stopped (R103, R131). -/
theorem countDown_running (n : Nat) : (countDown (running n)).getD 0 = if n ≤ 1 then n else n - 1 := by
  unfold running countDown
  split
  · next h => simp [h]
  · simp

/-- Settles O2: an idle step queues the next internal event, or is one microsecond of the Time Base. -/
theorem idleStep : Obligations.IdleStep := by
  intro s hp
  have hstep : step s = .next (idle s) := by
    unfold step
    rw [hp]
  rw [hstep]
  constructor
  · intro c hc
    simp only [idle, hc, hp, List.nil_append]
  · intro hn
    refine ⟨tick s, by simp only [idle, hn], rfl, by simp only [tick, hp, List.nil_append], fun l => ?_, ?_⟩
    · simp only [tick, State.lane, Fin.getElem_fin, Vector.getElem_map, countDown]
    · simp only [tick, countDown_running]
      rfl

theorem managed_pending {src : Source} (hm : Managed src s u) : u.pending = s.pending := by
  cases hm
  case laneClaimed => simp
  case laneOff => simp
  case laneReset => simp
  case cleared t => cases t <;> rfl
  case reset => rw [deviceReset_eq]
  all_goals rfl

theorem judgeReception_pending (r : Reception) : (judgeReception r s).pending = s.pending := by
  obtain ⟨b, e | ⟨c, e⟩ | ⟨f, k, e⟩ | ⟨q, -, e⟩ | ⟨n, -, -, e⟩⟩ := judgeReception_cases s r <;> rw [e] <;> rfl

theorem grant_pending (c : Choice) : (grant c s).pending = s.pending := by
  cases c <;> unfold grant <;> dsimp only <;> split <;> rfl

theorem completeRequester_pending (q : Requester) : (completeRequester q s).pending = s.pending := by
  cases q <;> unfold completeRequester
  case event => dsimp only; split <;> rfl
  case slot => simp
  all_goals rfl

/-- While time does not pass no move adds a command to the queue. -/
theorem move_pending (hm : Move False s t) : t.pending = s.pending := by
  cases hm
  case tick h => exact h.elim
  case linkDown => rw [linkDownState_eq]
  case frameTaken r r' _ =>
    rw [judgeReception_pending]
    exact admitAll_pending s
  case admitted => exact admitNext_pending s
  case readyTimeout l i _ _ => exact retryOrDecide_pending ..
  case lastWord l i din _ _ => exact (judgeFlow_pending _).trans (decideOutcome_pending ..)
  case claim l din _ => simp
  case granted c _ _ _ => exact grant_pending c
  case frameEnd f _ => exact completeRequester_pending f.requester
  case managed q rest u v r _ hm hv =>
    have hu : u.pending = s.pending := managed_pending (s := taken s rest) hm
    rcases hv with rfl | rfl
    · exact hu
    · unfold restartLease
      split <;> exact hu
  all_goals rfl

/-- Settles O3: every command is a move in which time does not pass. -/
theorem everyCommandRuns : Obligations.EveryCommandRuns := by
  intro c s
  have hnext : ∃ t, exec c s = .next t := by cases c <;> exact ⟨_, rfl⟩
  obtain ⟨t, ht⟩ := hnext
  exact ⟨t, ht, move_pending (exec_move ht)⟩

/-! ### Resets and synchronisation -/

/-- Settles O5, from the power-on values of the engines and from the definitions of the pins. -/
theorem resetPins : Obligations.ResetPins := by
  refine ⟨fun s => ⟨powerOn s, exec_powerOn s, rfl, powerOn_lane s, fun l k time => ?_, rfl⟩,
    fun s => ⟨_, rfl, rfl, fun l k time => ⟨rfl, rfl, rfl⟩, rfl⟩, fun s hr => ⟨fun ho => ?_, fun f ho => ?_⟩⟩
  · have hoff : ((powerOn s).lane l).state ≠ .shifting := by simp [LaneEngine.powerOn]
    refine ⟨?_, ?_, dataPin_of_not_shifting rfl hoff time⟩
    · have hsel : ((powerOn s).lane l).selectsOut = 0 := by rw [powerOn_lane]; rfl
      rw [selectPin, if_neg (by simp [powerOn, State.reset]), hsel]
      simp
    · rw [clockPin_of_not_shifting rfl hoff, powerOn_lane]; rfl
  · simp [transmitPair, hr, ho]
  · simp [transmitPair, hr, ho]

/-- Settles O6, from the two events where they arise. -/
theorem synchronisationEvents : Obligations.SynchronisationEvents := by
  refine ⟨fun s hs hr => ?_, fun s hs => ?_⟩
  · simp [exec, execSyncFound, hs, hr]
  · simp [exec, execSyncLost, hs]

/-- Settles O10, clause by clause from the events where they arise. -/
theorem frameBegun : Obligations.FrameBegun := by
  refine ⟨fun s hl hs hr => ?_, fun s h => ?_, fun s r hr => ?_, fun s cause hc => ?_⟩
  · simp only [exec, execStartDelimiter, if_pos (And.intro hl (And.intro hs hr))]
    rfl
  · have hn : ¬(s.receiver.link = .up ∧ s.receiver.inSync = true ∧ s.resetLine = false) := by
      rcases h with h | h <;> simp [h]
    simp only [exec, execStartDelimiter, if_neg hn]
  · simp only [exec, execFrameAbandoned, hr]
    rfl
  · simp only [exec, execFrameAbandoned]
    cases hr : s.receiver.reception with
    | none => simp only [← hr]
    | some r =>
      cases cause with
      | secondStart => exact absurd rfl hc
      | invalidCharacter => rfl
      | abortDelimiter => rfl

/-! ### Conditions, records, outcomes -/

/-- Settles O14, from the two steps of setting a condition: the mark and the judgement. -/
theorem conditionSet : Obligations.ConditionSet := by
  intro c s
  refine ⟨fun d => ?_, ?_, ?_⟩
  · rw [setCondition_events, EventUnit.judge_cond, EventUnit.mark_cond]
  · rw [setCondition_eq, setCondition_events, EventUnit.judge_eq]
    rfl
  · rw [setCondition_events, EventUnit.judge_conditions]
    have hnews := (s.events.mark c).hasNews_iff
    split
    · next h =>
      obtain ⟨hq, hd, hl, hn⟩ := h
      rw [EventUnit.judge_of_news (s.events.mark c) ⟨hq, hd, hl, hnews.2 hn⟩]
      exact ⟨rfl, rfl⟩
    · next h =>
      rw [EventUnit.judge_of_none (s.events.mark c) fun hc => h ⟨hc.1, hc.2.1, hc.2.2.1, hnews.1 hc.2.2.2⟩]
      exact ⟨rfl, rfl⟩

/-- Settles O16, from the two cases of the queue's length. -/
theorem recordQueue : Obligations.RecordQueue := by
  refine fun r s => ⟨fun h => ?_, fun h => ?_⟩
  · simp only [addRecord, if_pos h]
  · simp only [addRecord, if_neg (Nat.not_lt.2 h)]
    rfl

/-- Settles O18, from the two cases of the decision, with what is counted written out. -/
theorem outcomeDecided : Obligations.OutcomeDecided := by
  intro i o s
  have hfreed : freedAtOnce (s.slot i) o = true ↔
      o = .linkLost ∨ (s.slot i).orphan = true ∨ (o = .ok ∧ (s.slot i).responseWanted = false) := by
    simp [freedAtOnce, or_assoc]
  have hcount : countOutcome i o s =
      { s with counters := (if o = .ok then
          bumpSet (s.slotRoute i).counterSet (lengthBucket ((s.slot i).writeCount + (s.slot i).readCount)) 1
            (bumpSet (s.slotRoute i).counterSet .wordsRead (s.slot i).readCount
              (bumpSet (s.slotRoute i).counterSet .wordsWritten (s.slot i).writeCount (bumpSet (s.slotRoute i).counterSet .doneOk 1 s)))
        else bumpSet (s.slotRoute i).counterSet .doneFail 1 s).counters } := by
    unfold countOutcome CounterBank.addOutcome
    split <;> rfl
  dsimp only
  split
  · next h => rw [decideOutcome_of_freed _ (hfreed.2 h), hcount]
  · next h => rw [decideOutcome_of_done _ (Bool.eq_false_iff.2 (mt hfreed.1 h)), hcount]

/-! ### The lanes -/

/-- Settles O23, from the start of an attempt and from the two cases of READY_ASSERT. -/
theorem attemptBegins : Obligations.AttemptBegins := by
  refine ⟨fun s l ready i rest hs hq hc => ?_, fun s l i hs hi => ?_, fun s l hs => ?_⟩
  · have hstart : canStart l s = true := by
      have hclaim : (s.lane l).claimed = false := by rcases hc with h | h <;> simp [LaneEngine.claimed, h]
      simp [canStart, hs, hq, hclaim]
    simp only [exec, execLaneStartAttempt, hstart, if_true, hq, LaneEngine.start]
    rfl
  · simp only [exec, execReadyAssert, hs, hi]
    rfl
  · simp only [exec, execReadyAssert]
    split
    · next h _ => exact absurd h hs
    · rfl

/-- Settles O28, from the end of a gap and the release of a claim. -/
theorem laneReturnsToIdle : Obligations.LaneReturnsToIdle := by
  refine ⟨fun s l hs ht => ?_, fun s l => ?_⟩
  · obtain ⟨n, hn⟩ := Option.isSome_iff_exists.1 ht
    simp only [exec, execGapTimerExpiry, hs, hn, LaneEngine.enterIdle, LaneEngine.claimed]
    rfl
  · simp only [exec, execClaimRelease, LaneEngine.enterIdle, LaneEngine.claimed, Bool.false_and]
    split
    · rfl
    · rfl

/-- Outside SHIFTING a claim leaves every captured word (R78). -/
theorem captureUntilClaim_of_not_shifting {l : LaneId} (h : (s.lane l).state ≠ .shifting) (din : List Bool) : captureUntilClaim l din s = s := by
  unfold captureUntilClaim
  split
  · next hs _ => exact absurd hs h
  · rfl

/-- An assertion of a watched claim outside SHIFTING acts on the engine as it stands (R78). -/
theorem exec_claimAssert_of_not_shifting {l : LaneId} (hw : (s.lane l).claimWatch = true) (h : (s.lane l).state ≠ .shifting) (din : List Bool) :
    exec (.claimAssert l din) s = .next (claimActs l (s.setLane l { s.lane l with claimIn := true })) := by
  have hc := captureUntilClaim_of_not_shifting (s := s.setLane l { s.lane l with claimIn := true }) (l := l) (by simpa using h) din
  have hexec : exec (.claimAssert l din) s = .next (if (s.lane l).claimWatch = true then
      claimActs l (captureUntilClaim l din (s.setLane l { s.lane l with claimIn := true }))
    else s.setLane l { s.lane l with claimIn := true }) := rfl
  rw [hexec, if_pos hw, hc]

theorem setLane_setLane (s : State) (l : LaneId) (e e' : LaneEngine) : (s.setLane l e).setLane l e' = s.setLane l e' := by
  simp [State.setLane]

/-- Settles O29, from the states in which a claim finds no attempt. -/
theorem claimAssert : Obligations.ClaimAssert := by
  intro s l din
  refine ⟨fun h => ?_, fun hw hs => ?_, fun hw hs => ?_⟩
  · by_cases hw : (s.lane l).claimWatch = true
    · have hst : (s.lane l).state = .off ∨ (s.lane l).state = .yielded := h.resolve_left (by simp [hw])
      rw [exec_claimAssert_of_not_shifting hw (by rcases hst with e | e <;> simp [e])]
      rcases hst with e | e <;> simp [claimActs, e] <;> rfl
    · simp only [exec, execClaimAssert, if_neg hw]
      rfl
  · rw [exec_claimAssert_of_not_shifting hw (by simp [hs])]
    simp [claimActs, hs, setLane_setLane]
    rfl
  · rw [exec_claimAssert_of_not_shifting hw (by simp [hs])]
    simp [claimActs, hs, setLane_setLane]
    rfl

/-! ### The timers of the device -/

theorem requestHold_of_none {f : FlowController} {link : LinkState} (hd : f.settings.destination = none) :
    f.requestHold link = f := by
  simp only [FlowController.requestHold, FlowController.requestFrame, hd]

theorem requestHold_of_some {f : FlowController} {d : Destination} (hd : f.settings.destination = some d) (hm : f.settings.mode ≠ .off) :
    f.requestHold .up = { f with
      pendingHold := some { holdTime := f.settings.holdTime, lanes := f.heldLanes, poolFlag := f.poolFlag, destination := d } } := by
  simp only [FlowController.requestHold, FlowController.requestFrame, hd, true_and, if_pos hm]

/-- Settles O31, from each expiry where its timer runs. -/
theorem timerExpiries : Obligations.TimerExpiries := by
  refine ⟨fun s ht hs hl hm => ?_, fun s => rfl, fun s hh => ?_, fun s ht hs => ?_⟩
  · obtain ⟨n, hn⟩ := Option.isSome_iff_exists.1 ht
    have hexec : exec .refreshTimerExpiry s =
        .next { s with flow := (s.flow.requestHold s.receiver.link).startRefresh s.receiver.link } := by
      simp only [exec, execRefreshTimerExpiry, hn, hs]
    rw [hexec, hl]
    cases hd : s.flow.settings.destination with
    | none => rw [requestHold_of_none hd]; rfl
    | some d => rw [requestHold_of_some hd hm]; rfl
  · simp only [exec, execLeaseExpiry, hh, if_true]
    rfl
  · obtain ⟨n, hn⟩ := Option.isSome_iff_exists.1 ht
    simp only [exec, execRepeatTimerExpiry, hn, hs]

end

end Sys2Proof.Machine

/-!
PROOFS. The freeing of slots, the counting of outcomes decided together, and the two link events: O7, O8, O9, O17.
-/
namespace Sys2Proof.Machine

open Sys2Proof.Safety

/-! ### Freeing slots -/

section
variable (is : List SlotId) (s : State)

/-- The number of slots that name an entry, as the statements count it. -/
theorem filter_route_length (r : RouteId) : (is.filter fun i => (s.slot i).route = r).length = namedBy is s r := by
  unfold namedBy
  congr 1

theorem completesDrain_eq (r : RouteId) : completesDrain is s r = (s.route r).drains (namedBy is s r) := by
  rw [Bool.eq_iff_iff, RouteEntry.drains_iff, ← filter_route_length]
  simp [completesDrain]

theorem drainedBy_eq : drainedBy is s = (List.finRange 128).filter fun r => completesDrain is s r := by
  simp only [completesDrain_eq]
  rfl

theorem drainedBy_ne_nil_iff : drainedBy is s ≠ [] ↔ ∃ r, completesDrain is s r = true := by
  rw [drainedBy_eq, ne_eq, List.filter_eq_nil_iff]
  simp

theorem drainedBy_nodup : (drainedBy is s).Nodup := (List.nodup_finRange 128).filter _

theorem freeSlots_route_completes (r : RouteId) : (freeSlots is s).route r =
    { s.route r with
      inUse := (s.route r).inUse - (is.filter fun i => (s.slot i).route = r).length
      state := if completesDrain is s r then .closed else (s.route r).state } := by
  rw [freeSlots_route, filter_route_length, completesDrain_eq]
  rfl

theorem freeSlots_drained : (freeSlots is s).events.drained = s.events.drained ++
    (List.finRange 128).filter (fun r => completesDrain is s r && !(s.events.drained.contains r)) := by
  rw [freeSlots_events, foldl_drainDone_drained _ _ (drainedBy_nodup is s), drainedBy_eq, List.filter_filter]
  simp only [Bool.and_comm]

theorem freeSlots_cond (c : Condition) : (freeSlots is s).events.cond c =
    if c = .drainDone ∧ (∃ r, completesDrain is s r = true) then .unreported else s.events.cond c := by
  simp only [freeSlots_events, foldl_drainDone_cond, drainedBy_ne_nil_iff]

theorem freeSlots_events_of_none (h : ∀ r, completesDrain is s r = false) : (freeSlots is s).events = s.events := by
  have hnil : drainedBy is s = [] := by
    by_contra hne
    obtain ⟨r, hr⟩ := (drainedBy_ne_nil_iff is s).1 hne
    simp [h r] at hr
  rw [freeSlots_events, hnil]
  rfl

/-- Where a drain completes, the Event Unit is judged as after the marking of DRAIN_DONE (R59, R162, R163). -/
theorem freeSlots_judged (h : ∃ r, completesDrain is s r = true) :
    (freeSlots is s).events.conditions = (s.events.mark .drainDone).conditions ∧
    (freeSlots is s).events.state = ((s.events.mark .drainDone).judge s.receiver.link).state ∧
    (freeSlots is s).events.request = ((s.events.mark .drainDone).judge s.receiver.link).request := by
  have hne := (drainedBy_ne_nil_iff is s).2 h
  refine ⟨EventUnit.conditions_eq fun c => ?_, ?_⟩
  · rw [freeSlots_cond, EventUnit.mark_cond]
    simp [h]
  · rw [freeSlots_events]
    exact foldl_drainDone_judged s.receiver.link _ hne s.events

end

/-- Settles O17, from the lemmas about each field of a freeing. -/
theorem slotsFreed : Obligations.SlotsFreed := by
  intro is s
  refine ⟨freeSlots_slot is s, freeSlots_freeCells is s, freeSlots_route_completes is s, ?_, freeSlots_drained is s, freeSlots_cond is s, ?_,
    fun h => ?_, fun h => ?_, freeSlots_events_of_none is s⟩
  · conv_lhs => rw [freeSlots_eq]
  · rw [freeSlots_events]
    exact foldl_drainDone_eq s.receiver.link _ s.events
  · obtain ⟨hd, hq, hdest, hl, hnews⟩ := h
    obtain ⟨hc, hst, hreq⟩ := freeSlots_judged is s hd
    rw [hc] at hnews
    rw [hst, hreq, EventUnit.judge_of_news (s.events.mark .drainDone) ⟨hq, hdest, hl, (EventUnit.hasNews_iff _).2 hnews⟩]
    exact ⟨rfl, rfl⟩
  · by_cases hd : ∃ r, completesDrain is s r = true
    · obtain ⟨hc, hst, hreq⟩ := freeSlots_judged is s hd
      rw [hst, hreq, EventUnit.judge_of_none (s.events.mark .drainDone)]
      · exact ⟨rfl, rfl⟩
      · rintro ⟨hq, hdest, hl, hnews⟩
        rw [EventUnit.hasNews_iff, ← hc] at hnews
        exact h ⟨hd, hq, hdest, hl, hnews⟩
    · have he := freeSlots_events_of_none is s fun r => Bool.eq_false_iff.2 fun hr => hd ⟨r, hr⟩
      rw [he]
      exact ⟨rfl, rfl⟩

/-! ### Counting outcomes decided together -/

section
variable (s : State) {o : TxOutcome}

/-- Failures decided one after another count DONE_FAIL for each slot in the set of its route (R54). -/
theorem foldl_countOutcome_setCount (ho : o ≠ .ok) (is : List SlotId) (k : SetId) (c : SetCounter) :
    (is.foldl (fun t i => countOutcome i o t) s).setCount k c = s.setCount k c +
      if c = .doneFail then BitVec.ofNat 40 (is.filter fun i => (s.slotRoute i).counterSet = some k).length else 0 := by
  induction is generalizing s with
  | nil => simp
  | cons i is ih =>
    have hroute : ∀ j, (countOutcome i o s).slotRoute j = s.slotRoute j := fun j => by
      simp only [countOutcome_of_failure i s ho]; rfl
    have hcount : (countOutcome i o s).setCount k c =
        if (s.slotRoute i).counterSet = some k ∧ c = .doneFail then s.setCount k c + 1 else s.setCount k c := by
      simp only [countOutcome_of_failure i s ho, bumpSet_setCount, eq_comm (a := SetCounter.doneFail)]
      rfl
    simp only [List.foldl_cons, ih, hroute, hcount]
    by_cases hc : c = .doneFail <;> by_cases hk : (s.slotRoute i).counterSet = some k
    · simp only [hc, hk, and_self, if_true, List.filter_cons, decide_true, List.length_cons, BitVec.ofNat_add]
      rw [add_assoc, add_comm (BitVec.ofNat 40 _)]
      rfl
    · simp [hc, hk]
    · simp [hc]
    · simp [hc]

theorem foldl_countOutcome_deviceCount (ho : o ≠ .ok) (is : List SlotId) (c : DeviceCounter) :
    (is.foldl (fun t i => countOutcome i o t) s).deviceCount c = s.deviceCount c := by
  induction is generalizing s with
  | nil => rfl
  | cons i is ih => rw [List.foldl_cons, ih, countOutcome_of_failure i s ho, bumpSet_deviceCount]

end

/-! ### The link goes down: the Transaction Table -/

section
variable (s : State)

/-- What the freeing of the QUEUED and the DONE slots finds at link down: the outcomes counted, the ACTIVE slots marked, the queues
empty (R60, R61). -/
def unlinked (s : State) : State :=
  { s with
    counters := (bumpDevice .responsesDiscarded (slotsIn .done s).length
      ((slotsIn .queued s).foldl (fun t i => countOutcome i .linkLost t) s)).counters
    slots := s.slots.map markOrphan, queues := Vector.replicate 8 [], completion := [] }

theorem tableLinkDown_freeSlots :
    tableLinkDown s = freeSlots (slotsIn .queued s ++ slotsIn .done s) (unlinked s) := by
  unfold tableLinkDown
  dsimp only
  rw [foldl_countOutcome_eq]
  rfl

theorem unlinked_slot (i : SlotId) : (unlinked s).slot i = markOrphan (s.slot i) := by simp [unlinked, State.slot]

/-- Link down frees the slots that leave, in another order (R60). -/
theorem leaving_perm : (slotsIn .queued s ++ slotsIn .done s).Perm (leaving s) := by
  have hnodup : ∀ p : SlotId → Bool, ((List.finRange 64).filter p).Nodup := (List.nodup_finRange 64).filter
  refine (List.perm_ext_iff_of_nodup ((hnodup _).append (hnodup _) ?_) (hnodup _)).2 fun i => ?_
  · intro i hq hd
    exact absurd ((mem_slotsIn.1 hq).symm.trans (mem_slotsIn.1 hd)) (by decide)
  · simp

theorem tableLinkDown_completes (r : RouteId) :
    completesDrain (slotsIn .queued s ++ slotsIn .done s) (unlinked s) r = completesDrain (leaving s) s r := by
  have hroute : ∀ i, ((unlinked s).slot i).route = (s.slot i).route := fun i => by rw [unlinked_slot, markOrphan_eq]
  have hlen := ((leaving_perm s).filter fun i => (s.slot i).route = r).length_eq
  simp only [completesDrain, hroute, hlen]
  rfl

theorem tableLinkDown_slot (i : SlotId) : (tableLinkDown s).slot i =
    match (s.slot i).state with
    | .free => s.slot i
    | .queued => Slot.freed
    | .active => { s.slot i with orphan := true }
    | .done => Slot.freed := by
  rw [tableLinkDown_freeSlots, freeSlots_slot, unlinked_slot]
  simp only [List.mem_append, mem_slotsIn, markOrphan]
  cases (s.slot i).state <;> simp

theorem tableLinkDown_freeCells :
    (tableLinkDown s).freeCells = s.freeCells + ((leaving s).map fun i => (s.slot i).cells.length).sum := by
  have hcells : ∀ i, ((unlinked s).slot i).cells = (s.slot i).cells := fun i => by rw [unlinked_slot, markOrphan_eq]
  have hsum := ((leaving_perm s).map fun i => (s.slot i).cells.length).sum_eq
  rw [tableLinkDown_freeSlots, freeSlots_freeCells]
  simp only [hcells, hsum]
  rfl

theorem tableLinkDown_route (r : RouteId) : (tableLinkDown s).route r = { s.route r with
    inUse := (s.route r).inUse - ((leaving s).filter fun i => (s.slot i).route = r).length
    state := if completesDrain (leaving s) s r then .closed else (s.route r).state } := by
  have hroute : ∀ i, ((unlinked s).slot i).route = (s.slot i).route := fun i => by rw [unlinked_slot, markOrphan_eq]
  have hlen := ((leaving_perm s).filter fun i => (s.slot i).route = r).length_eq
  rw [tableLinkDown_freeSlots, freeSlots_route_completes, tableLinkDown_completes]
  simp only [hroute, hlen]
  rfl

theorem tableLinkDown_drained : (tableLinkDown s).events.drained = s.events.drained ++
    (List.finRange 128).filter (fun r => completesDrain (leaving s) s r && !(s.events.drained.contains r)) := by
  rw [tableLinkDown_freeSlots, freeSlots_drained]
  simp only [tableLinkDown_completes]
  rfl

theorem tableLinkDown_cond (c : Condition) : (tableLinkDown s).events.cond c =
    if c = .drainDone ∧ (∃ r, completesDrain (leaving s) s r = true) then .unreported else s.events.cond c := by
  rw [tableLinkDown_freeSlots, freeSlots_cond]
  simp only [tableLinkDown_completes]
  rfl

theorem tableLinkDown_counters : (tableLinkDown s).counters = (unlinked s).counters := by
  rw [tableLinkDown_freeSlots, freeSlots_eq]

theorem tableLinkDown_setCount (k : SetId) (c : SetCounter) : (tableLinkDown s).setCount k c = s.setCount k c +
    if c = .doneFail then
      BitVec.ofNat 40 ((List.finRange 64).filter fun i =>
        (s.slot i).state = .queued ∧ (s.slotRoute i).counterSet = some k).length
    else 0 := by
  have hfilter : ((slotsIn .queued s).filter fun i => (s.slotRoute i).counterSet = some k) =
      (List.finRange 64).filter fun i => (s.slot i).state = .queued ∧ (s.slotRoute i).counterSet = some k := by
    rw [slotsIn, List.filter_filter]
    refine List.filter_congr fun i _ => ?_
    rw [Bool.eq_iff_iff]
    simp [and_comm]
  calc (tableLinkDown s).setCount k c
      = ((slotsIn .queued s).foldl (fun t i => countOutcome i .linkLost t) s).setCount k c := by
        unfold State.setCount; rw [tableLinkDown_counters]; rfl
    _ = _ := by rw [foldl_countOutcome_setCount s (by decide), hfilter]

theorem tableLinkDown_deviceCount (c : DeviceCounter) : (tableLinkDown s).deviceCount c = s.deviceCount c +
    if c = .responsesDiscarded then BitVec.ofNat 40 ((List.finRange 64).filter fun i => (s.slot i).state = .done).length else 0 := by
  have hfilter : slotsIn .done s = (List.finRange 64).filter fun i => (s.slot i).state = .done := rfl
  calc (tableLinkDown s).deviceCount c
      = (bumpDevice .responsesDiscarded (slotsIn .done s).length
          ((slotsIn .queued s).foldl (fun t i => countOutcome i .linkLost t) s)).deviceCount c := by
        unfold State.deviceCount; rw [tableLinkDown_counters]; rfl
    _ = _ := by
      rw [bumpDevice_deviceCount, foldl_countOutcome_deviceCount s (by decide), hfilter]
      by_cases hc : c = .responsesDiscarded
      · simp [hc]
      · simp [hc, Ne.symm hc]

end

section
variable {s : State}

theorem exec_linkDown (hup : s.receiver.link = .up) (hsync : s.receiver.inSync = false) (hrun : s.receiver.syncTimer.isSome = true) :
    exec .linkDown s = .next (linkDownState s) := by
  have harises : linkDownArises s = true := by simp [linkDownArises, hup, hsync, hrun]
  change execLinkDown s = _
  unfold execLinkDown
  rw [if_pos harises]
  rfl

end

theorem flowLinkDown_occupancy (s : State) (l : LaneId) : (flowLinkDown s).occupancy l = s.occupancy l := rfl

/-- After the Transaction Table, link down leaves its tables, the free count and the counters (R109). -/
theorem linkDownState_table (s : State) :
    (linkDownState s).slots = (tableLinkDown (linkDownStart s)).slots ∧
    (linkDownState s).routes = (tableLinkDown (linkDownStart s)).routes ∧
    (linkDownState s).freeCells = (tableLinkDown (linkDownStart s)).freeCells ∧
    (linkDownState s).counters = (tableLinkDown (linkDownStart s)).counters ∧
    ∀ l, (linkDownState s).occupancy l = (tableLinkDown (linkDownStart s)).occupancy l := by
  unfold linkDownState flowLinkDown judgeLevels
  exact ⟨rfl, rfl, rfl, rfl, flowLinkDown_occupancy _⟩

theorem linkDownState_drained (s : State) : (linkDownState s).events.drained = (tableLinkDown (linkDownStart s)).events.drained := by
  change (flowLinkDown (tableLinkDown (linkDownStart s))).events.drained = _
  unfold flowLinkDown judgeLevels
  dsimp only
  split
  · rw [EventUnit.judge_drained, EventUnit.mark_drained]
  · rfl

/-- Settles O8: the freeing of the slots that leave, on a state whose outcomes are counted and whose ACTIVE slots are marked. -/
theorem linkDownTable : Obligations.LinkDownTable := by
  intro s hup hsync hrun
  obtain ⟨hslots, hroutes, hfree, hcounters, -⟩ := linkDownState_table s
  have hlanes : (linkDownState s).lanes = s.lanes := by rw [linkDownState_eq]
  have hmem : (linkDownState s).mem = s.mem := by rw [linkDownState_eq]
  have hqueues : (linkDownState s).queues = Vector.replicate 8 [] := by rw [linkDownState_eq]
  have hcompletion : (linkDownState s).completion = [] := by rw [linkDownState_eq]
  refine ⟨linkDownState s, exec_linkDown hup hsync hrun, fun i => ?_, fun l => ?_, hcompletion, hlanes, hmem, ?_, fun r => ?_,
    (linkDownState_drained s).trans (tableLinkDown_drained (linkDownStart s)), fun k c => ?_, fun c => ?_⟩
  · rw [State.slot, hslots]
    exact tableLinkDown_slot (linkDownStart s) i
  · simp [State.queue, hqueues]
  · rw [hfree]
    exact tableLinkDown_freeCells (linkDownStart s)
  · rw [State.route, hroutes]
    exact tableLinkDown_route (linkDownStart s) r
  · rw [State.setCount, hcounters]
    exact tableLinkDown_setCount (linkDownStart s) k c
  · rw [State.deviceCount, hcounters]
    refine (tableLinkDown_deviceCount (linkDownStart s) c).trans ?_
    rw [linkDownStart, bumpDevice_deviceCount]
    by_cases hd : c = .responsesDiscarded
    · subst hd; rfl
    · by_cases hl : c = .linkDowns
      · subst hl; exact add_zero _
      · simp only [hd, hl, Ne.symm hl, if_false]
        rfl

/-! ### The link goes down: the other blocks -/

/-- Judged without regard to earlier values, the pool flag is raised at or below the hold level (R101). -/
theorem poolFlagNext_false (g : FlowSettings) (free : Nat) : poolFlagNext g false free = decide (free ≤ g.poolHold) := by
  unfold poolFlagNext
  split
  · next h => simp [h]
  · next h => simp [h]

theorem laneHeldNext_false (g : FlowSettings) (occ : Nat) : laneHeldNext g false occ = decide (g.laneHold ≤ occ) := by
  unfold laneHeldNext
  split
  · next h => simp [h]
  · next h => simp [h]

theorem EventUnit.unreport_cond (e : EventUnit) (c : Condition) :
    e.unreport.cond c = if e.cond c = .clear then .clear else .unreported := by
  by_cases h : e.conditions[c.index.val] = .clear <;> simp [EventUnit.unreport, EventUnit.cond, h]

theorem EventUnit.endEvent_cond (e : EventUnit) (c : Condition) : e.endEvent.cond c = e.cond c := rfl

section
variable (s : State)

/-- Link down lists drains, marks conditions and judges in the Event Unit; the rest of it stands until the event in progress ends. -/
theorem tableLinkDown_events_eq : (tableLinkDown s).events = { s.events with
    conditions := (tableLinkDown s).events.conditions, drained := (tableLinkDown s).events.drained
    state := (tableLinkDown s).events.state, request := (tableLinkDown s).events.request } := by
  simp only [tableLinkDown_freeSlots, freeSlots_events]
  exact foldl_drainDone_eq _ _ s.events

theorem flowLinkDown_events_eq : (flowLinkDown s).events = { s.events with
    conditions := (flowLinkDown s).events.conditions
    state := (flowLinkDown s).events.state, request := (flowLinkDown s).events.request } := by
  unfold flowLinkDown judgeLevels
  dsimp only
  split
  · rw [EventUnit.judge_eq]; rfl
  · rfl

theorem flowLinkDown_cond (c : Condition) : (flowLinkDown s).events.cond c =
    if c = .poolLow ∧ s.freeCells ≤ s.flow.settings.poolHold ∧ s.flow.poolFlag = false then .unreported else s.events.cond c := by
  have hevents : (flowLinkDown s).events =
      if poolFlagNext s.flow.settings false s.freeCells && !s.flow.poolFlag then (s.events.mark .poolLow).judge s.receiver.link
      else s.events := rfl
  rw [hevents, poolFlagNext_false]
  by_cases hraised : s.freeCells ≤ s.flow.settings.poolHold ∧ s.flow.poolFlag = false
  · rw [if_pos (by simpa using hraised), EventUnit.judge_cond, EventUnit.mark_cond]
    simp [hraised]
  · rw [if_neg (by simpa using hraised), if_neg fun h => hraised h.2]

/-- A condition after link down: unreported when it was set, when it is DRAIN_DONE and a drain completes, and when it is POOL_LOW and the
flag is raised (R162, R167, log 15). -/
theorem linkDownState_cond (c : Condition) : (linkDownState s).events.cond c =
    if s.events.cond c ≠ .clear ∨ (c = .drainDone ∧ ∃ r, completesDrain (leaving s) s r = true) ∨
      (c = .poolLow ∧ (linkDownState s).freeCells ≤ s.flow.settings.poolHold ∧ s.flow.poolFlag = false) then .unreported else .clear := by
  obtain ⟨-, -, hfree, -, -⟩ := linkDownState_table s
  have hcond : (tableLinkDown (linkDownStart s)).events.cond c =
      if c = .drainDone ∧ (∃ r, completesDrain (leaving s) s r = true) then .unreported else s.events.cond c :=
    tableLinkDown_cond (linkDownStart s) c
  have hevents : (linkDownState s).events = (flowLinkDown (tableLinkDown (linkDownStart s))).events.endEvent.unreport := rfl
  have hflow : (tableLinkDown (linkDownStart s)).flow = s.flow := tableLinkDown_flow _
  rw [hevents, EventUnit.unreport_cond, EventUnit.endEvent_cond, flowLinkDown_cond, hcond, hflow, ← hfree]
  by_cases hp : c = .poolLow ∧ (linkDownState s).freeCells ≤ s.flow.settings.poolHold ∧ s.flow.poolFlag = false
  · rw [if_pos hp, if_pos (Or.inr (Or.inr hp))]
    rfl
  · rw [if_neg hp]
    by_cases hd : c = .drainDone ∧ ∃ r, completesDrain (leaving s) s r = true
    · rw [if_pos hd, if_pos (Or.inr (Or.inl hd))]
      rfl
    · rw [if_neg hd]
      simp [hp, hd]

theorem linkDownState_events_eq : (linkDownState s).events = { s.events with
    conditions := (linkDownState s).events.conditions, drained := (linkDownState s).events.drained
    state := .quiet, outstanding := none, request := false, repeatTimer := none } := by
  have hevents : (linkDownState s).events = (flowLinkDown (tableLinkDown (linkDownStart s))).events.endEvent.unreport := rfl
  rw [hevents, flowLinkDown_events_eq, tableLinkDown_events_eq]
  rfl

/-- The Flow Controller after its part of link down: flag, set and state judged afresh (R101). -/
theorem flowLinkDown_flow :
    (flowLinkDown s).flow.settings = s.flow.settings ∧
    (flowLinkDown s).flow.refreshTimer = none ∧ (flowLinkDown s).flow.pendingHold = none ∧
    (flowLinkDown s).flow.poolFlag = decide (s.freeCells ≤ s.flow.settings.poolHold) ∧
    (∀ l : LaneId, (flowLinkDown s).flow.heldLanes.getLsbD l = decide (s.flow.settings.laneHold ≤ s.occupancy l)) ∧
    ((flowLinkDown s).flow.state = .holding ↔ s.flow.settings.mode ≠ .off ∧
      ((flowLinkDown s).flow.poolFlag = true ∨ ∃ l : LaneId, (flowLinkDown s).flow.heldLanes.getLsbD l = true)) := by
  refine ⟨rfl, rfl, rfl, poolFlagNext_false .., fun l => ?_, ?_⟩
  · refine (heldNext_getLsbD ..).trans ?_
    rw [show (0 : BitVec 8).getLsbD l.val = false from BitVec.getLsbD_zero]
    exact laneHeldNext_false ..
  · rw [← FlowController.pressure_iff]
    have hpressure : (flowLinkDown s).flow.pressure = (judgeLevels false 0 s).flow.pressure := rfl
    have hstate : (flowLinkDown s).flow.state =
        if s.flow.settings.mode ≠ .off ∧ (judgeLevels false 0 s).flow.pressure then .holding else .clear := rfl
    rw [hpressure, hstate]
    split
    · next h => exact iff_of_true rfl h
    · next h => exact iff_of_false (by simp) h

end

/-- Settles O9: each block's part of link down, the conditions by the one lemma that says when each is set. -/
theorem linkDownBlocks : Obligations.LinkDownBlocks := by
  intro s hup hsync hrun
  obtain ⟨hset, hrefresh, hpending, hflag, hheld, hstate⟩ := flowLinkDown_flow (tableLinkDown (linkDownStart s))
  obtain ⟨-, -, hfree, -, hocc⟩ := linkDownState_table s
  have hflow : (linkDownState s).flow = (flowLinkDown (tableLinkDown (linkDownStart s))).flow := rfl
  have hsettings : (tableLinkDown (linkDownStart s)).flow.settings = s.flow.settings := by rw [tableLinkDown_flow]; rfl
  rw [← hflow, hsettings] at hset hstate
  rw [← hflow, hsettings, ← hfree] at hflag
  simp only [← hflow, hsettings, ← hocc] at hheld
  refine ⟨linkDownState s, exec_linkDown hup hsync hrun, ?_, ?_, ?_, linkDownState_events_eq s, fun c hc => ?_, fun c hd hp hc => ?_,
    fun hc => ?_, fun hc => ?_, hset,
    hrefresh, hpending, hflag, hheld, hstate, ?_, ?_, ?_, ?_⟩
  · rw [linkDownState_eq]; rfl
  · rw [linkDownState_eq]
    simp [transmitterLinkDown, Transmitter.cutOff]
  · rw [linkDownState_eq]; rfl
  · rw [linkDownState_cond, if_pos (Or.inl hc)]
  · rw [linkDownState_cond, if_neg (by simp [hc, hd, hp])]
  · rw [linkDownState_cond]
    simp [hc]
  · rw [linkDownState_cond]
    simp [hc, and_comm]
  all_goals rw [linkDownState_eq]

/-! ### The link comes up -/

/-- Settles O7: LINK_RESTORED is marked and judged, and the Flow Controller acts by its state, mode and destination. -/
theorem linkUp : Obligations.LinkUp := by
  intro s hdown hsync hrun
  have harises : linkUpArises s = true := by simp [linkUpArises, hdown, hsync, hrun]
  have hexec : exec .linkUp s = .next (linkUpState s) := by
    change execLinkUp s = _
    unfold execLinkUp
    rw [if_pos harises]
    rfl
  have hevents : (linkUpState s).events = (s.events.mark .linkRestored).judge .up := rfl
  have hflow : (linkUpState s).flow =
      if s.flow.state = .holding ∧ s.flow.settings.mode ≠ .off ∧ s.flow.settings.destination.isSome then
        (s.flow.requestHold .up).startRefresh .up
      else s.flow := rfl
  refine ⟨linkUpState s, hexec, rfl, ?_, ?_, fun d hd hs hm => ?_, fun h => ?_⟩
  · rw [hevents, EventUnit.judge_conditions]; rfl
  · rw [hevents, EventUnit.judge_hasNews]
    by_cases hnews : s.events.state = .quiet ∧ s.events.destination.isSome = true ∧ (s.events.mark .linkRestored).hasNews = true
    · rw [if_pos hnews, EventUnit.judge_of_news]
      · rfl
      · exact ⟨hnews.1, hnews.2.1, rfl, hnews.2.2⟩
    · rw [if_neg hnews, EventUnit.judge_of_none]
      · rfl
      · exact fun h => hnews ⟨h.1, h.2.1, h.2.2.2⟩
  · rw [hflow, if_pos ⟨hs, hm, by simp [hd]⟩]
    simp [FlowController.requestHold, FlowController.requestFrame, FlowController.startRefresh, hd, hm]
  · rw [hflow, if_neg]
    rintro ⟨hs, hm, hd⟩
    rcases h with h | h | h
    · simp [h] at hd
    · simp [h] at hs
    · exact hm h

end Sys2Proof.Machine

/-!
PROOFS. What the Flow Controller decides, judged by an event or by SET_FLOW: O15, O45.
-/
namespace Sys2Proof.Machine

open Sys2Proof.Safety

/-! ### The moves and the decision, case by case -/

section
variable {f : FlowController} {link : LinkState}

theorem FlowController.move_of_off (hm : f.settings.mode = .off) (c : Bool) : f.move link c = f.clear := if_pos hm

/-- Pressure that is new, or changed, makes the controller hold anew (R97). -/
theorem FlowController.move_of_news (hm : f.settings.mode ≠ .off) (hp : f.pressure = true) {c : Bool} (h : f.state = .clear ∨ c = true) :
    f.move link c = f.holdAnew link := by
  unfold FlowController.move
  rw [if_neg hm, hp]
  cases hs : f.state
  · rfl
  · rcases h with h | h
    · simp [hs] at h
    · simp [h]

theorem FlowController.move_of_stands (hm : f.settings.mode ≠ .off) (hp : f.pressure = true) (hs : f.state = .holding) :
    f.move link false = f := by
  unfold FlowController.move
  rw [if_neg hm, hp, hs]
  rfl

theorem FlowController.move_of_ends (hm : f.settings.mode ≠ .off) (hp : f.pressure = false) (hs : f.state = .holding) (c : Bool) :
    f.move link c = f.release link := by
  unfold FlowController.move
  rw [if_neg hm, hp, hs]

theorem FlowController.move_of_calm (hm : f.settings.mode ≠ .off) (hp : f.pressure = false) (hs : f.state = .clear) (c : Bool) :
    f.move link c = f := by
  unfold FlowController.move
  rw [if_neg hm, hp, hs]

theorem FlowController.decide_of_off (hm : f.settings.mode = .off) : f.decide link = f.clear.withdrawHold := if_pos hm

theorem FlowController.decide_of_pressure (hm : f.settings.mode ≠ .off) (hp : f.pressure = true) : f.decide link = f.holdAnew link := by
  unfold FlowController.decide
  rw [if_neg hm, hp]
  cases f.state <;> rfl

theorem FlowController.decide_of_ends (hm : f.settings.mode ≠ .off) (hp : f.pressure = false) (hs : f.state = .holding) :
    f.decide link = f.release link := by
  unfold FlowController.decide
  rw [if_neg hm, hp, hs]

theorem FlowController.decide_of_calm (hm : f.settings.mode ≠ .off) (hp : f.pressure = false) (hs : f.state = .clear) :
    f.decide link = f := by
  unfold FlowController.decide
  rw [if_neg hm, hp, hs]

/-! ### The requests -/

/-- A hold request carries the contents as they stand (R98). -/
theorem FlowController.holdAnew_pendingHold_of_up {d : Destination} (hd : f.settings.destination = some d) (hm : f.settings.mode ≠ .off) :
    (f.holdAnew .up).pendingHold = some
      { holdTime := f.settings.holdTime, lanes := f.heldLanes, poolFlag := f.poolFlag, destination := d } := by
  rw [FlowController.holdAnew_pendingHold, FlowController.requestFrame_pendingHold]
  simp [hd, hm]

/-- Without a destination or with the link DOWN no request is made (R98). -/
theorem FlowController.holdAnew_pendingHold_of_none (h : f.settings.destination = none ∨ link = .down) :
    (f.holdAnew link).pendingHold = f.pendingHold := by
  rw [FlowController.holdAnew_pendingHold, FlowController.requestFrame_pendingHold]
  rcases h with h | h
  · simp [h]
  · cases f.settings.destination <;> simp [h]

theorem FlowController.release_pendingHold_of_up {d : Destination} (hm : f.settings.mode = .holdRelease) (hd : f.settings.destination = some d) :
    (f.release .up).pendingHold = some { holdTime := 0, lanes := 0, poolFlag := false, destination := d } := by
  rw [FlowController.release_pendingHold, if_pos hm, FlowController.requestFrame_pendingHold]
  simp [hd, hm]

theorem FlowController.release_pendingHold_of_holdOnly (hm : f.settings.mode = .holdOnly) : (f.release link).pendingHold = none := by
  rw [FlowController.release_pendingHold, if_neg (by simp [hm])]

end

/-! ### The judgement of an event -/

/-- The events after a judgement of the levels: POOL_LOW set by a raising of the flag (R96). -/
theorem judgeLevels_events (old : Bool) (held : BitVec 8) (s : State) : (judgeLevels old held s).events =
    if (judgeLevels old held s).flow.poolFlag = true ∧ s.flow.poolFlag = false then (setCondition .poolLow s).events else s.events := by
  unfold judgeLevels
  dsimp only
  by_cases h : poolFlagNext s.flow.settings old s.freeCells = true ∧ s.flow.poolFlag = false
  · rw [if_pos (by simpa using h), if_pos h]; rfl
  · rw [if_neg (by simpa using h), if_neg h]

/-- Settles O15: the levels give flag and set, and each clause on the state is one case of the move. -/
theorem flowJudgement : Obligations.FlowJudgement := by
  intro s t g stands changed
  set f := (judgeLevels s.flow.poolFlag s.flow.heldLanes s).flow with hf
  have hset : f.settings = g := rfl
  have hstate : f.state = s.flow.state := rfl
  have htimer : f.refreshTimer = s.flow.refreshTimer := rfl
  have hpending : f.pendingHold = s.flow.pendingHold := rfl
  have hmove : t.flow = f.move s.receiver.link (f.poolFlag != s.flow.poolFlag || f.heldLanes != s.flow.heldLanes) := rfl
  have hflag : t.flow.poolFlag = f.poolFlag := FlowController.move_poolFlag ..
  have hheld : t.flow.heldLanes = f.heldLanes := FlowController.move_heldLanes ..
  have hstands : stands ↔ f.pressure = true := by rw [FlowController.pressure_iff, ← hflag, ← hheld]
  have hcalm : ¬ stands → f.pressure = false := fun h => Bool.eq_false_iff.2 fun hp => h (hstands.2 hp)
  have hchanged : (f.poolFlag != s.flow.poolFlag || f.heldLanes != s.flow.heldLanes) = true ↔ changed := by
    simp only [changed, hflag, hheld, Bool.or_eq_true, bne_iff_ne]
  refine ⟨rfl, ?events, FlowController.move_settings .., ?flag, fun l => ?set, fun hm => ?off, fun hm => ?state,
    fun hm hs hc => ?anew, fun hm hs hst hc => ?unchanged, fun hm hs hst => ?ends, fun hm hs hst => ?calm⟩
  case events =>
    rw [hflag]
    exact judgeLevels_events s.flow.poolFlag s.flow.heldLanes s
  case flag => exact hflag
  case set =>
    rw [hheld]
    exact heldNext_getLsbD ..
  case off =>
    rw [hmove, FlowController.move_of_off (hset ▸ hm)]
    exact ⟨rfl, rfl, rfl⟩
  case state =>
    rw [hmove, FlowController.move_state_iff, hstands]
    exact and_iff_right hm
  case anew =>
    rw [FlowController.move_of_news (hset ▸ hm) (hstands.1 hs) (hc.imp (hstate.trans ·) hchanged.2)] at hmove
    rw [hflag, hheld, hmove]
    refine ⟨FlowController.holdAnew_refreshTimer .., fun d hd hl => ?_, fun h => ?_⟩
    · rw [hl]
      exact FlowController.holdAnew_pendingHold_of_up (hset ▸ hd) (hset ▸ hm)
    · exact FlowController.holdAnew_pendingHold_of_none (hset ▸ h)
  case unchanged =>
    rw [Bool.eq_false_iff.2 (mt hchanged.1 hc), FlowController.move_of_stands (hset ▸ hm) (hstands.1 hs) hst] at hmove
    rw [hmove]
    exact ⟨htimer, hpending⟩
  case ends =>
    rw [FlowController.move_of_ends (hset ▸ hm) (hcalm hs) hst] at hmove
    rw [hmove]
    refine ⟨FlowController.release_refreshTimer .., fun h => ?_, fun h d hd hl => ?_⟩
    · exact FlowController.release_pendingHold_of_holdOnly (hset ▸ h)
    · rw [hl]
      exact FlowController.release_pendingHold_of_up (hset ▸ h) (hset ▸ hd)
  case calm =>
    rw [FlowController.move_of_calm (hset ▸ hm) (hcalm hs) hst] at hmove
    rw [hmove]
    exact ⟨htimer, hpending⟩

/-! ### SET_FLOW -/

section
variable {s : State} {q : MgmtRequest} {rest : List MgmtRequest} {lease : Nat} {operands : List Byte}

theorem exec_setFlow (s : State) : exec .setFlow s = .next (serve opSetFlow s) := rfl

theorem exec_setFlow_badValue (ht : Taking s q rest) (hh : Holds s q lease) (hl : operands.length = 19) (hc : Carries q 16 operands)
    (hr : readFlowBlock operands = none) : exec .setFlow s = .next (withAgent s (answered s q rest .badValue [])) := by
  have hrun : runSetFlow q.source operands (taken s rest) = failWith .badValue (taken s rest) := by rw [runSetFlow, hr]
  rw [exec_setFlow, serve_of_holder_refused (op := opSetFlow) ht hc (by decide) hl rfl hh.1 hrun (by decide)]

/-- An accepted SET_FLOW touches the Flow Controller, by a raised flag the Event Unit, and the agent (R100). -/
theorem exec_setFlow_stored {g : FlowSettings} (ht : Taking s q rest) (hh : Holds s q lease) (hl : operands.length = 19)
    (hc : Carries q 16 operands) (hr : readFlowBlock operands = some g) :
    exec .setFlow s = .next { s with
      flow := (applyFlow g s).flow, events := (applyFlow g s).events
      agent := renewed s q rest lease (flowReply (applyFlow g s).flow) } := by
  have hrun : runSetFlow q.source operands (taken s rest) =
      doneWith (flowReply (applyFlow g (taken s rest)).flow) (applyFlow g (taken s rest)) := by rw [runSetFlow, hr]
  rw [exec_setFlow, serve_of_holder_done (op := opSetFlow) ht hc (by decide) hl rfl hh hrun rfl]
  rfl

/-- The refresh timer after an accepted SET_FLOW: it runs in HOLDING with the link UP, restarted (R99, R100). -/
theorem FlowController.decide_refreshTimer {f : FlowController} {link : LinkState}
    (ht : f.state = .clear → f.refreshTimer = none) :
    (f.decide link).refreshTimer = if (f.decide link).state = .holding ∧ link = .up then some f.settings.refreshInterval else none := by
  have hiff := f.decide_state_iff link
  by_cases hm : f.settings.mode = .off
  · rw [if_neg fun h => (hiff.1 h.1).1 hm, FlowController.decide_of_off hm]
    rfl
  · cases hp : f.pressure
    · rw [if_neg fun h => by simp [hp] at hiff; exact hiff h.1]
      cases hs : f.state
      · rw [FlowController.decide_of_calm hm hp hs, ht hs]
      · rw [FlowController.decide_of_ends hm hp hs]
        exact FlowController.release_refreshTimer ..
    · rw [FlowController.decide_of_pressure hm hp]
      simp

/-- Settles O45: refused operands change nothing; for accepted ones each clause is one case of the decision of R100. -/
theorem setFlow : Obligations.SetFlow := by
  intro s q rest lease operands ht hh hl hc
  refine ⟨fun h => exec_setFlow_badValue ht hh hl hc (readFlowBlock_none h),
    fun g hg hr => exec_setFlow_badValue ht hh hl hc ((readFlowBlock_of_spells hg).2 hr), fun g hlaw hg hr => ?_⟩
  obtain ⟨-, -, -, -, -, -, -, htimerLaw, -⟩ := hlaw
  refine ⟨_, exec_setFlow_stored ht hh hl hc ((readFlowBlock_of_spells hg).1 hr), ?_⟩
  set f := (judgeLevels s.flow.poolFlag s.flow.heldLanes { s with flow := { s.flow with settings := g } }).flow with hf
  have happly : (applyFlow g s).flow = (f.decide s.receiver.link).withdrawUndirected := rfl
  have hset : f.settings = g := rfl
  have hfstate : f.state = s.flow.state := rfl
  have hftimer : f.refreshTimer = s.flow.refreshTimer := rfl
  have hfpending : f.pendingHold = s.flow.pendingHold := rfl
  have hflag : (applyFlow g s).flow.poolFlag = f.poolFlag := by
    rw [happly, FlowController.withdrawUndirected_poolFlag, FlowController.decide_poolFlag]
  have hheld : (applyFlow g s).flow.heldLanes = f.heldLanes := by
    rw [happly, FlowController.withdrawUndirected_heldLanes, FlowController.decide_heldLanes]
  have hstate : (applyFlow g s).flow.state = (f.decide s.receiver.link).state := by rw [happly, FlowController.withdrawUndirected_state]
  have hiff : (applyFlow g s).flow.state = .holding ↔ g.mode ≠ .off ∧ f.pressure = true := by
    rw [hstate]; exact f.decide_state_iff _
  have hpending : ∀ d, g.destination = some d → (applyFlow g s).flow.pendingHold = (f.decide s.receiver.link).pendingHold := fun d hd => by
    rw [happly, FlowController.withdrawUndirected_pendingHold, FlowController.decide_settings, hset, if_neg (by simp [hd])]
  have hcalm : (applyFlow g s).flow.state = .clear → g.mode ≠ .off → f.pressure = false := fun hst hm => by
    refine Bool.eq_false_iff.2 fun hp => ?_
    have := hiff.2 ⟨hm, hp⟩
    simp [hst] at this
  refine ⟨rfl, ?settings, ?events, ?flag, fun l => ?set, ?state, ?timer, ?withdrawn, fun d hd hst hup => ?hold,
    fun d hd hm hold hst hup => ?release, fun hm hold hst => ?holdOnly, fun hm hd hold hst => ?stands⟩
  case settings => rw [happly, FlowController.withdrawUndirected_settings, FlowController.decide_settings, hset]
  case events =>
    dsimp only
    rw [hflag]
    exact judgeLevels_events s.flow.poolFlag s.flow.heldLanes { s with flow := { s.flow with settings := g } }
  case flag => exact hflag
  case set =>
    dsimp only
    rw [hheld]
    exact heldNext_getLsbD ..
  case state =>
    dsimp only
    rw [hiff, hflag, hheld, ← FlowController.pressure_iff]
  case timer =>
    dsimp only
    rw [hstate, happly, FlowController.withdrawUndirected_refreshTimer, FlowController.decide_refreshTimer, hset]
    intro hclear
    by_contra hne
    obtain ⟨hst, -⟩ := htimerLaw (Option.isSome_iff_ne_none.2 hne)
    simp [← hfstate, hclear] at hst
  case withdrawn =>
    intro h
    dsimp only
    rw [happly, FlowController.withdrawUndirected_pendingHold, FlowController.decide_settings, hset]
    rcases h with h | h
    · rw [FlowController.decide_of_off (hset ▸ h)]
      exact ite_self none
    · rw [if_pos h]
  case hold =>
    dsimp only at hst ⊢
    obtain ⟨hm, hp⟩ := hiff.1 hst
    rw [hpending d hd, hflag, hheld, hup, FlowController.decide_of_pressure (hset ▸ hm) hp]
    exact FlowController.holdAnew_pendingHold_of_up (hset ▸ hd) (hset ▸ hm)
  case release =>
    dsimp only at hst ⊢
    have hoff : g.mode ≠ .off := by simp [hm]
    rw [hpending d hd, hup, FlowController.decide_of_ends (hset ▸ hoff) (hcalm hst hoff) hold]
    exact FlowController.release_pendingHold_of_up (hset ▸ hm) (hset ▸ hd)
  case holdOnly =>
    dsimp only at hst ⊢
    have hoff : g.mode ≠ .off := by simp [hm]
    rw [happly, FlowController.withdrawUndirected_pendingHold, FlowController.decide_of_ends (hset ▸ hoff) (hcalm hst hoff) hold,
      FlowController.release_pendingHold_of_holdOnly (hset ▸ hm)]
    exact ite_self none
  case stands =>
    dsimp only at hst ⊢
    obtain ⟨d, hd⟩ := Option.isSome_iff_exists.1 hd
    rw [hpending d hd, FlowController.decide_of_calm (hset ▸ hm) (hcalm hst hm) hold]
    exact hfpending

end

end Sys2Proof.Machine

/-!
PROOFS. Management requests: the checks before an operation, the operations that read, the states of the route entries and the counters:
O35, O36, O39, O41, O44.
-/
namespace Sys2Proof.Machine

open Sys2Proof.Safety

/-! ### The table of the operations -/

/-- A row of the table of operations describes an operation of the model: the command serves it, and code, length and need of the lock are
those of the row (R128, R173). -/
structure Serves (row : Instr × Nat × Nat) (op : Operation) : Prop where
  exec : ∀ s, exec row.1 s = .next (serve op s)
  code : op.code = row.2.1
  length : op.length = row.2.2
  locked : row.1 ∈ lockedCommands → ∀ operands, op.needsLock operands = true
  clears : row.1 = .readCounters → op = opReadCounters

theorem serves_of_row : ∀ row ∈ operationTable, ∃ op, Serves row op := by
  have free : ∀ {row : Instr × Nat × Nat} {op : Operation}, (∀ s, exec row.1 s = .next (serve op s)) → op.code = row.2.1 →
      op.length = row.2.2 → row.1 ∉ lockedCommands → row.1 ≠ .readCounters → ∃ op, Serves row op :=
    fun he hc hl hn hr => ⟨_, he, hc, hl, fun h => absurd h hn, fun h => absurd h hr⟩
  have locked : ∀ {row : Instr × Nat × Nat} {op : Operation}, (∀ s, exec row.1 s = .next (serve op s)) → op.code = row.2.1 →
      op.length = row.2.2 → (∀ operands, op.needsLock operands = true) → row.1 ≠ .readCounters → ∃ op, Serves row op :=
    fun he hc hl hn hr => ⟨_, he, hc, hl, fun _ => hn, fun h => absurd h hr⟩
  simp only [operationTable, List.forall_mem_cons]
  refine ⟨?lock, ?unlock, ?readDevice, ?setDevice, ?readRoute, ?findRoute, ?writeRoute, ?openRoute, ?drainRoute, ?deleteRoute, ?readLane,
    ?setLane, ?resetLane, ?readTransactions, ?readCounters, ?setFlow, ?readFlow, ?setEvents, ?ackEvents, ?deviceReset, by simp⟩
  case lock => exact free (op := opLock) (fun _ => rfl) rfl rfl (by decide) (by decide)
  case unlock => exact free (op := opUnlock) (fun _ => rfl) rfl rfl (by decide) (by decide)
  case readDevice => exact free (op := opReadDevice) (fun _ => rfl) rfl rfl (by decide) (by decide)
  case readRoute => exact free (op := opReadRoute) (fun _ => rfl) rfl rfl (by decide) (by decide)
  case findRoute => exact free (op := opFindRoute) (fun _ => rfl) rfl rfl (by decide) (by decide)
  case readLane => exact free (op := opReadLane) (fun _ => rfl) rfl rfl (by decide) (by decide)
  case readTransactions => exact free (op := opReadTransactions) (fun _ => rfl) rfl rfl (by decide) (by decide)
  case readFlow => exact free (op := opReadFlow) (fun _ => rfl) rfl rfl (by decide) (by decide)
  case ackEvents => exact free (op := opAckEvents) (fun _ => rfl) rfl rfl (by decide) (by decide)
  case setDevice => exact locked (op := opSetDevice) (fun _ => rfl) rfl rfl (fun _ => rfl) (by decide)
  case writeRoute => exact locked (op := opWriteRoute) (fun _ => rfl) rfl rfl (fun _ => rfl) (by decide)
  case openRoute => exact locked (op := opOpenRoute) (fun _ => rfl) rfl rfl (fun _ => rfl) (by decide)
  case drainRoute => exact locked (op := opDrainRoute) (fun _ => rfl) rfl rfl (fun _ => rfl) (by decide)
  case deleteRoute => exact locked (op := opDeleteRoute) (fun _ => rfl) rfl rfl (fun _ => rfl) (by decide)
  case setLane => exact locked (op := opSetLane) (fun _ => rfl) rfl rfl (fun _ => rfl) (by decide)
  case resetLane => exact locked (op := opResetLane) (fun _ => rfl) rfl rfl (fun _ => rfl) (by decide)
  case setFlow => exact locked (op := opSetFlow) (fun _ => rfl) rfl rfl (fun _ => rfl) (by decide)
  case setEvents => exact locked (op := opSetEvents) (fun _ => rfl) rfl rfl (fun _ => rfl) (by decide)
  case deviceReset => exact locked (op := opDeviceReset) (fun _ => rfl) rfl rfl (fun _ => rfl) (by decide)
  case readCounters => exact ⟨opReadCounters, fun _ => rfl, rfl, rfl, fun h => absurd h (by decide), fun _ => rfl⟩

section
variable {s : State} {q : MgmtRequest} {rest : List MgmtRequest}

theorem exec_mgmtBadOperation (ht : Taking s q rest) (hc : byteAt q.body 0 = 0 ∨ 20 < byteAt q.body 0) :
    exec .mgmtBadOperation s = .next (withAgent s (answered s q rest .badOperation [])) := by
  change execMgmtBadOperation s = _
  simp only [execMgmtBadOperation, canTake_of_taking ht]
  rw [if_pos (by exact hc)]
  simp only [placeResponse, responseTo, failWith, withAgent, answered, getD_zero_eq_headD]

/-- Settles O35: the code is judged first, then the length, whatever operation the row names. -/
theorem requestMalformed : Obligations.RequestMalformed := by
  intro s q rest ht
  refine ⟨exec_mgmtBadOperation ht, fun row hrow hc hl => ?_⟩
  obtain ⟨op, h⟩ := serves_of_row row hrow
  rw [h.exec, serve_of_bad_length ht (hc.trans h.code.symm) (by rwa [h.length])]

/-- Settles O36: an operation that needs the lock is refused before it runs. -/
theorem lockGuard : Obligations.LockGuard := by
  intro s q rest ht hh row hrow hc hl hlock
  obtain ⟨op, h⟩ := serves_of_row row hrow
  have hneeds : op.needsLock (q.body.drop 4) = true := by
    rcases hlock with hlock | ⟨hrow, hclear⟩
    · exact h.locked hlock _
    · have hbyte : byteAt (q.body.drop 4) 1 = byteAt q.body 5 := by simp [byteAt]
      rw [h.clears hrow]
      simpa [opReadCounters, hbyte] using hclear
  rw [h.exec]
  exact congrArg Host.Outcome.next (serve_of_no_lock ht (hc.trans h.code.symm) (by rw [h.length]; exact hl) hneeds hh)

/-! ### The operations that read -/

theorem fieldAt_beBytes_two {n : Nat} (h : n < 65536) : fieldAt (beBytes 2 n) 0 2 = n := by
  have := fieldAt_zero (post := []) (k := 2) (n := n) h
  rwa [List.append_nil] at this

theorem runReadRoute_eq (src : Source) (n : Byte) (s : State) : runReadRoute src [n] s =
    if h : n.toNat < 128 then doneWith (routeRecord s ⟨n.toNat, h⟩) s else failWith .badIndex s := by
  unfold runReadRoute
  rw [byteAt_nat]
  by_cases h : n.toNat < 128
  · rw [routeOf_eq (r := ⟨n.toNat, h⟩) rfl, dif_pos h]
  · rw [routeOf_none (by omega), dif_neg h]

theorem runReadLane_eq (src : Source) (n : Byte) (s : State) : runReadLane src [n] s =
    if h : n.toNat < 8 then doneWith (laneReply s ⟨n.toNat, h⟩ ++ [currentByte (s.lane ⟨n.toNat, h⟩)]) s else failWith .badIndex s := by
  unfold runReadLane
  rw [byteAt_nat]
  by_cases h : n.toNat < 8
  · rw [laneOf_eq (l := ⟨n.toNat, h⟩) rfl, dif_pos h]
  · rw [laneOf_none (by omega), dif_neg h]

theorem runFindRoute_eq (src : Source) {label : Nat} (hl : label < 65536) (s : State) : runFindRoute src (beBytes 2 label) s =
    if 4095 < label then failWith .badValue s
    else match lookup label s with
      | none => failWith .badIndex s
      | some r => doneWith (routeRecord s r) s := by
  unfold runFindRoute
  rw [fieldAt_beBytes_two hl] <;> rfl

theorem exec_readRoute (s : State) : exec .readRoute s = .next (serve opReadRoute s) := rfl
theorem exec_findRoute (s : State) : exec .findRoute s = .next (serve opFindRoute s) := rfl
theorem exec_readLane (s : State) : exec .readLane s = .next (serve opReadLane s) := rfl

/-- Settles O39: each operation requires no lock and leaves the state it is run on. -/
theorem readsAnswer : Obligations.ReadsAnswer := by
  intro s q rest ht
  refine ⟨fun hc => ?device, fun hc => ?flow, fun hc => ?transactions, fun n hc => ?route, fun label hl hc => ?find, fun n hc => ?lane⟩
  case device =>
    exact congrArg _ (serve_of_read (op := opReadDevice) ht hc (by decide) rfl rfl rfl)
  case flow =>
    exact congrArg _ (serve_of_read (op := opReadFlow) ht hc (by decide) rfl rfl rfl)
  case transactions =>
    exact congrArg _ (serve_of_read (op := opReadTransactions) ht hc (by decide) rfl rfl rfl)
  case route =>
    have hrun := runReadRoute_eq q.source n (taken s rest)
    rw [exec_readRoute]
    split
    · next h =>
      rw [dif_pos h] at hrun
      rw [serve_of_read (op := opReadRoute) ht hc (by decide) rfl rfl hrun]
      rfl
    · next h =>
      rw [dif_neg h] at hrun
      rw [serve_of_refused (op := opReadRoute) ht hc (by decide) rfl rfl hrun]
  case find =>
    have hrun := runFindRoute_eq q.source hl (taken s rest)
    have hlookup : lookup label (taken s rest) = lookup label s := rfl
    rw [exec_findRoute]
    split
    · next h =>
      rw [if_pos h] at hrun
      rw [serve_of_refused (op := opFindRoute) ht hc (by decide) rfl rfl hrun]
    · next h =>
      rw [if_neg h, hlookup] at hrun
      cases hk : lookup label s with
      | none =>
        rw [hk] at hrun
        rw [serve_of_refused (op := opFindRoute) ht hc (by decide) rfl rfl hrun]
      | some r =>
        rw [hk] at hrun
        rw [serve_of_read (op := opFindRoute) ht hc (by decide) rfl rfl hrun]
        rfl
  case lane =>
    have hrun := runReadLane_eq q.source n (taken s rest)
    rw [exec_readLane]
    split
    · next h =>
      rw [dif_pos h] at hrun
      rw [serve_of_read (op := opReadLane) ht hc (by decide) rfl rfl hrun]
      rfl
    · next h =>
      rw [dif_neg h] at hrun
      rw [serve_of_refused (op := opReadLane) ht hc (by decide) rfl rfl hrun]

/-! ### The states of the route entries -/

variable {lease : Nat} {n : Byte}

theorem runOnEntry_badIndex (change : RouteId → State → Option State) (hn : 128 ≤ n.toNat) (s : State) :
    runOnEntry change [n] s = failWith .badIndex s := by
  rw [runOnEntry, byteAt_nat, routeOf_none hn]

theorem runOnEntry_of_none {change : RouteId → State → Option State} {r : RouteId} (hr : r.val = n.toNat) (h : change r s = none) :
    runOnEntry change [n] s = failWith .wrongState s := by
  rw [runOnEntry, byteAt_nat, routeOf_eq hr]
  simp only [h]

theorem runOnEntry_of_some {change : RouteId → State → Option State} {r : RouteId} {u : State} (hr : r.val = n.toNat) (h : change r s = some u) :
    runOnEntry change [n] s = doneWith (routeReply u r) u := by
  rw [runOnEntry, byteAt_nat, routeOf_eq hr]
  simp only [h]

/-- An entry operation of the holder that meets the entry in another state, or no entry, changes nothing but the agent (R14). -/
theorem serve_onEntry_refused {op : Operation} {res : MgmtResult} (ht : Taking s q rest) (hh : Holds s q lease) (hc : Carries q op.code [n])
    (hlt : op.code < 256) (hl : op.length = 1) (hn : op.needsLock [n] = true)
    (hr : op.run q.source [n] (taken s rest) = failWith res (taken s rest)) (hd : res ≠ .done) :
    serve op s = withAgent s (answered s q rest res []) :=
  serve_of_holder_refused ht hc hlt hl.symm hn hh.1 hr hd

theorem setRoute_route_same (s : State) (r : RouteId) (e : RouteEntry) : (s.setRoute r e).route r = e := by
  rw [State.setRoute_route, if_pos rfl]

/-- The reply on an entry just written gives its index, its state and its in-use count (R139). -/
theorem routeReply_of_route {u : State} {r : RouteId} {e : RouteEntry} (hr : r.val = n.toNat) (hu : u.route r = e) :
    routeReply u r = [n, BitVec.ofNat 8 e.state.code, BitVec.ofNat 8 e.inUse] := by
  have hn : BitVec.ofNat 8 r.val = n := by rw [hr]; simp
  simp only [routeReply, hu, hn]

theorem exec_openRoute (s : State) : exec .openRoute s = .next (serve opOpenRoute s) := rfl
theorem exec_drainRoute (s : State) : exec .drainRoute s = .next (serve opDrainRoute s) := rfl
theorem exec_deleteRoute (s : State) : exec .deleteRoute s = .next (serve opDeleteRoute s) := rfl

end

/-- Settles O41: the index first, then the entry's state decides the change. -/
theorem routeStates : Obligations.RouteStates := by
  intro s q rest lease n ht hh
  refine ⟨?index, fun r hr => ⟨fun hc => ?opened, fun hc => ?drain, fun hc => ?delete⟩⟩
  case index =>
    simp only [List.forall_mem_cons]
    refine ⟨fun hc hn => ?_, fun hc hn => ?_, fun hc hn => ?_, by simp⟩
    · rw [exec_openRoute, serve_onEntry_refused ht hh hc (by decide) rfl rfl (runOnEntry_badIndex openEntry hn _) (by decide)]
    · rw [exec_drainRoute, serve_onEntry_refused ht hh hc (by decide) rfl rfl (runOnEntry_badIndex drainEntry hn _) (by decide)]
    · rw [exec_deleteRoute, serve_onEntry_refused ht hh hc (by decide) rfl rfl (runOnEntry_badIndex deleteEntry hn _) (by decide)]
  case opened =>
    rw [exec_openRoute]
    split
    · next hst =>
      have hchange : openEntry r (taken s rest) = some ((taken s rest).setRoute r { s.route r with state := .opened }) := if_pos hst
      rw [serve_of_holder_done (op := opOpenRoute) ht hc (by decide) rfl rfl hh (runOnEntry_of_some hr hchange) rfl,
        routeReply_of_route hr (setRoute_route_same ..)]
      rfl
    · next hst => rw [serve_onEntry_refused ht hh hc (by decide) rfl rfl (runOnEntry_of_none hr (if_neg hst)) (by decide)]; rfl
  case drain =>
    rw [exec_drainRoute]
    split
    · next hst =>
      split
      · next hu =>
        have hchange : drainEntry r (taken s rest) =
            some (setDrainDone r ((taken s rest).setRoute r { s.route r with state := .closed })) :=
          (if_pos hst).trans (if_pos hu)
        have hreply := routeReply_of_route (u := setDrainDone r ((taken s rest).setRoute r { s.route r with state := .closed })) hr
          (setRoute_route_same (taken s rest) r { s.route r with state := .closed })
        have hreply := routeReply_of_route (u := setDrainDone r ((taken s rest).setRoute r { s.route r with state := .closed })) hr
          (setRoute_route_same (taken s rest) r { s.route r with state := .closed })
        rw [serve_of_holder_done (op := opDrainRoute) ht hc (by decide) rfl rfl hh (runOnEntry_of_some hr hchange) rfl, hreply, hu]
        rfl
      · next hu =>
        have hchange : drainEntry r (taken s rest) = some ((taken s rest).setRoute r { s.route r with state := .draining }) :=
          (if_pos hst).trans (if_neg hu)
        rw [serve_of_holder_done (op := opDrainRoute) ht hc (by decide) rfl rfl hh (runOnEntry_of_some hr hchange) rfl,
          routeReply_of_route hr (setRoute_route_same ..)]
        rfl
    · next hst => rw [serve_onEntry_refused ht hh hc (by decide) rfl rfl (runOnEntry_of_none hr (if_neg hst)) (by decide)]; rfl
  case delete =>
    rw [exec_deleteRoute]
    split
    · next hst =>
      have hchange : deleteEntry r (taken s rest) = some ((taken s rest).setRoute r .powerOn) := if_pos hst
      rw [serve_of_holder_done (op := opDeleteRoute) ht hc (by decide) rfl rfl hh (runOnEntry_of_some hr hchange) rfl,
        routeReply_of_route hr (setRoute_route_same ..)]
      rfl
    · next hst => rw [serve_onEntry_refused ht hh hc (by decide) rfl rfl (runOnEntry_of_none hr (if_neg hst)) (by decide)]; rfl

/-! ### The counters -/

section
variable {s : State} {q : MgmtRequest} {rest : List MgmtRequest} {lease : Nat} {n clear : Byte}

theorem targetOf_set {k : SetId} (hk : k.val = n.toNat) : targetOf n.toNat = some (.set k) := by
  have hlt := k.isLt
  unfold targetOf
  rw [if_neg (by omega), dif_pos (by omega)]
  simp [← hk]

theorem targetOf_none (hn : 32 ≤ n.toNat) (hd : n ≠ 255) : targetOf n.toNat = none := by
  unfold targetOf
  have h255 : n.toNat ≠ 255 := fun h => hd (BitVec.eq_of_toNat_eq h)
  rw [if_neg h255, dif_neg (by omega)]

/-- READ_COUNTERS of a target in range with a clear operand of yes or no (R143). -/
theorem runReadCounters_of_target (src : Source) {t : CounterTarget} (ht : targetOf n.toNat = some t) (hc : clear = 0 ∨ clear = 1) (s : State) :
    runReadCounters src [n, clear] s = doneWith (n :: copyCounters t s) (if clear = 1 then clearCounters t s else s) := by
  have hbytes : byteAt [n, clear] 0 = n.toNat ∧ byteAt [n, clear] 1 = clear.toNat := ⟨rfl, rfl⟩
  simp only [runReadCounters, hbytes, ht, boolOf_eq hc, List.getD_cons_zero, decide_eq_true_eq]

theorem runReadCounters_badIndex (src : Source) (ht : targetOf n.toNat = none) (s : State) :
    runReadCounters src [n, clear] s = failWith .badIndex s := by
  have hbytes : byteAt [n, clear] 0 = n.toNat := rfl
  simp only [runReadCounters, hbytes, ht]

theorem runReadCounters_badValue (src : Source) {t : CounterTarget} (ht : targetOf n.toNat = some t) (hc : 1 < clear.toNat) (s : State) :
    runReadCounters src [n, clear] s = failWith .badValue s := by
  have hbytes : byteAt [n, clear] 0 = n.toNat ∧ byteAt [n, clear] 1 = clear.toNat := ⟨rfl, rfl⟩
  simp only [runReadCounters, hbytes, ht, boolOf_none hc]

theorem exec_readCounters (s : State) : exec .readCounters s = .next (serve opReadCounters s) := rfl

theorem clearCounters_agent (t : CounterTarget) (s : State) : (clearCounters t s).agent = s.agent := by cases t <;> rfl

theorem exec_readCounters_copied {t : CounterTarget} (ht : Taking s q rest) (hc : Carries q 15 [n, 0]) (htarget : targetOf n.toNat = some t) :
    exec .readCounters s = .next (withAgent s (answered s q rest .done (n :: copyCounters t s))) := by
  have hrun := runReadCounters_of_target q.source htarget (Or.inl rfl) (taken s rest)
  rw [exec_readCounters, serve_of_read (op := opReadCounters) ht hc (by decide) rfl rfl hrun]
  cases t <;> rfl

theorem exec_readCounters_cleared {t : CounterTarget} (ht : Taking s q rest) (hh : Holds s q lease) (hc : Carries q 15 [n, 1])
    (htarget : targetOf n.toNat = some t) :
    exec .readCounters s = .next { clearCounters t s with agent := renewed s q rest lease (n :: copyCounters t s) } := by
  have hrun := runReadCounters_of_target q.source htarget (Or.inr rfl) (taken s rest)
  rw [if_pos rfl] at hrun
  rw [exec_readCounters, serve_of_holder_done (op := opReadCounters) ht hc (by decide) rfl rfl hh hrun (clearCounters_agent ..)]
  cases t <;> rfl

theorem exec_readCounters_badIndex (ht : Taking s q rest) (hc : Carries q 15 [n, clear]) (hh : clear = 0 ∨ Holds s q lease)
    (htarget : targetOf n.toNat = none) :
    exec .readCounters s = .next (withAgent s (answered s q rest .badIndex [])) := by
  have hrun := runReadCounters_badIndex (clear := clear) q.source htarget (taken s rest)
  rw [exec_readCounters]
  by_cases hz : clear = 0
  · subst hz
    rw [serve_of_refused (op := opReadCounters) ht hc (by decide) rfl rfl hrun]
  · have hneeds : opReadCounters.needsLock [n, clear] = true := by
      have : clear.toNat ≠ 0 := fun h => hz (BitVec.eq_of_toNat_eq h)
      simpa [opReadCounters, byteAt] using this
    obtain ⟨hh, -⟩ := hh.resolve_left hz
    rw [serve_of_holder_refused (op := opReadCounters) ht hc (by decide) rfl hneeds hh hrun (by decide)]

end

/-- Settles O44: the target first, then the clear operand; clearing zeroes the target alone. -/
theorem readCounters : Obligations.ReadCounters := by
  intro s q rest lease n ht
  have h255 : n = 255 → targetOf n.toNat = some .device := fun h => by rw [h]; rfl
  refine ⟨fun hc => ⟨fun k hk => exec_readCounters_copied ht hc (targetOf_set hk), fun hn => exec_readCounters_copied ht hc (h255 hn),
    fun hn hd => exec_readCounters_badIndex (lease := lease) ht hc (Or.inl rfl) (targetOf_none hn hd)⟩,
    fun hc hh => ⟨fun k hk => exec_readCounters_cleared ht hh hc (targetOf_set hk), fun hn => exec_readCounters_cleared ht hh hc (h255 hn)⟩,
    fun clear hc hh => ⟨fun hn hd => exec_readCounters_badIndex ht hc (Or.inr hh) (targetOf_none hn hd), fun hclear hn => ?_⟩⟩
  have htarget : ∃ t, targetOf n.toNat = some t := by
    rcases hn with hn | hn
    · exact ⟨_, targetOf_set (k := ⟨n.toNat, hn⟩) rfl⟩
    · exact ⟨_, h255 hn⟩
  obtain ⟨t, htarget⟩ := htarget
  have hneeds : opReadCounters.needsLock [n, clear] = true := by
    have : clear.toNat ≠ 0 := by omega
    simpa [opReadCounters, byteAt] using this
  rw [exec_readCounters, serve_of_holder_refused (op := opReadCounters) ht hc (by decide) rfl hneeds hh.1
    (runReadCounters_badValue q.source htarget hclear _) (by decide)]

end Sys2Proof.Machine

/-!
PROOFS. The attempts of the lanes: how they end, what they capture and what stands at the pins: O24, O25, O26, O27, O30.
-/
namespace Sys2Proof.Machine

open Sys2Proof.Safety

/-! ### How an attempt ends -/

/-- The engine after an attempt that is over: in GAP, or with gap 0 in IDLE or YIELDED (R77). -/
theorem quit_enterGap_eq (e : LaneEngine) : e.quit.enterGap =
    { e with
      current := none, readyTimer := none, selectsOut := 0
      gapTimer := if e.gap = 0 then none else some e.gap
      state := if e.gap ≠ 0 then .gap else if e.claimIn && e.claimWatch then .yielded else .idle } := by
  unfold LaneEngine.enterGap
  by_cases h : e.gap = 0
  · rw [if_pos (show e.quit.gap = 0 from h)]
    simp only [LaneEngine.enterIdle, h, if_true, ne_eq, not_true_eq_false, if_false]
    unfold LaneEngine.quit LaneEngine.claimed
    rw [h]
  · rw [if_neg (show e.quit.gap ≠ 0 from h)]
    simp only [h, if_false, ne_eq, not_false_eq_true, if_true]
    rfl

/-- Settles O24, from the one case in which the expiry happens. -/
theorem readyTimeout : Obligations.ReadyTimeout := by
  intro s l i hs hi ht
  obtain ⟨n, hn⟩ := Option.isSome_iff_exists.1 ht
  simp only [exec, execReadyTimerExpiry, hs, hi, hn, quit_enterGap_eq]
  rfl

/-- A length bucket is none of the other counters that an OK adds to (R151). -/
theorem lengthBucket_ne (n : Nat) : lengthBucket n ≠ .doneOk ∧ lengthBucket n ≠ .wordsWritten ∧ lengthBucket n ≠ .wordsRead := by
  unfold lengthBucket
  split_ifs <;> decide

section
variable {s : State} {l : LaneId} {i : SlotId}

/-- An attempt that ends takes its slot off the lane. -/
theorem occupancy_setLane_none (hc : (s.lane l).current = some i) {e : LaneEngine} (he : e.current = none) :
    (s.setLane l e).occupancy l + 1 = s.occupancy l := by
  simp [State.occupancy, hc, he]

theorem exec_endOfLastWord (hs : (s.lane l).state = .shifting) (hi : (s.lane l).current = some i) (din : List Bool) :
    exec (.endOfLastWord l din) s = .next (judgeFlow (decideOutcome i .ok
      ((storeCaptured i din (capturedWords (s.slot i)) s).setLane l (s.lane l).quit.enterGap))) := by
  simp only [exec, execEndOfLastWord, hs, hi]

/-- An OK counted in a set: the transaction and its words (R54). -/
theorem countOutcome_ok_setCount {k : SetId} (hk : (s.slotRoute i).counterSet = some k) :
    (countOutcome i .ok s).setCount k .doneOk = s.setCount k .doneOk + 1 ∧
    (countOutcome i .ok s).setCount k .wordsWritten = s.setCount k .wordsWritten + BitVec.ofNat 40 (s.slot i).writeCount ∧
    (countOutcome i .ok s).setCount k .wordsRead = s.setCount k .wordsRead + BitVec.ofNat 40 (s.slot i).readCount := by
  obtain ⟨h1, h2, h3⟩ := lengthBucket_ne ((s.slot i).writeCount + (s.slot i).readCount)
  simp [countOutcome_ok, hk, h1, h2, h3]

end

/-- Settles O25: the command decides OK on the state with the words stored and the lane in its gap. -/
theorem endOfLastWord : Obligations.EndOfLastWord := by
  intro s l din i hs hi g u
  have hu : u = (storeCaptured i din (capturedWords (s.slot i)) s).setLane l (s.lane l).quit.enterGap := by
    rw [quit_enterGap_eq]
    rfl
  have hexec : exec (.endOfLastWord l din) s = .next (judgeFlow (decideOutcome i .ok u)) := by
    rw [exec_endOfLastWord hs hi, hu]
  refine ⟨hexec, ?_, fun ho hw => ⟨_, hexec, ?_⟩⟩
  · rw [hu]
    exact occupancy_setLane_none (s := storeCaptured i din (capturedWords (s.slot i)) s) hi (enterGap_current _)
  · have hkept : freedAtOnce (u.slot i) .ok = false := by
      have h1 : (u.slot i).orphan = false := ho
      have h2 : (u.slot i).responseWanted = true := hw
      simp [freedAtOnce, h1, h2]
    have hcounts : ∀ k c, (judgeFlow (decideOutcome i .ok u)).setCount k c = (countOutcome i .ok u).setCount k c := fun k c =>
      decideOutcome_setCount i u .ok k c
    refine ⟨?_, ?_, ?_, ?_, fun k hk => ?_⟩
    · have hslots : (judgeFlow (decideOutcome i .ok u)).slot i = (decideOutcome i .ok u).slot i := rfl
      rw [hslots, decideOutcome_of_done _ hkept]
      simp [State.slot, u]
    · rw [judgeFlow_completion, decideOutcome_of_done _ hkept]
    · rw [judgeFlow_freeCells, decideOutcome_of_done _ hkept]
    · rw [judgeFlow_routes, decideOutcome_of_done _ hkept]
    · obtain ⟨h1, h2, h3⟩ := countOutcome_ok_setCount (s := u) (i := i) (k := k) hk
      rw [hcounts, hcounts, hcounts]
      exact ⟨h1, h2, h3⟩

/-! ### What an attempt captures -/

section
variable {s : State}

theorem capturedWords_le (t : Slot) : capturedWords t ≤ t.readCount := by
  unfold capturedWords
  cases t.shape <;> simp

/-- The cells of a slot are distinct, and its read cells hold its read words (R34, R91). -/
theorem readCells_of_poolLaw (hp : PoolLaw s) (i : SlotId) :
    (s.slot i).readCells.Nodup ∧ (s.slot i).readCells.length = cellsFor ((s.slot i).readCount * (s.slot i).wordBytes) := by
  obtain ⟨-, hnodup, -, hlen⟩ := hp
  have hcells : (s.slot i).cells.Nodup := (List.nodup_flatMap.1 hnodup).1 i (List.mem_finRange i)
  refine ⟨hcells.sublist (List.drop_sublist ..), ?_⟩
  rw [Slot.readCells, List.length_drop, hlen i, cellsNeeded, Slot.writeCellCount]
  omega

theorem cellsFor_mono {m n : Nat} (h : m ≤ n) : cellsFor m ≤ cellsFor n := by
  unfold cellsFor
  omega

/-- The read cells have room for the words an attempt captures. -/
theorem captured_fit (hp : PoolLaw s) (i : SlotId) {n : Nat} (hn : n ≤ capturedWords (s.slot i)) :
    cellsFor (n * (s.slot i).wordBytes) ≤ (s.slot i).readCells.length := by
  rw [(readCells_of_poolLaw hp i).2]
  exact cellsFor_mono (Nat.mul_le_mul_right _ (hn.trans (capturedWords_le _)))

/-- Storing in cells leaves every byte of every other cell (R93). -/
theorem readByte_storeBytes_outside {cells : List Nat} {bs : List Byte} (hfit : cellsFor bs.length ≤ cells.length) {m : Memory}
    (hm : Memory.wf m) {a : Nat} (ha : a / 32 ∉ cells) : readByte (storeBytes cells 0 bs m) a = readByte m a := by
  refine readByte_storeBytes_of_ne _ _ _ hm _ fun j hj heq => ha ?_
  unfold cellsFor at hfit
  have hjl : j / 32 < cells.length := by omega
  simp only [dataAddr, Nat.zero_add, List.getD_eq_getElem?_getD, List.getElem?_eq_getElem hjl, Option.getD_some] at heq
  have : cells[j / 32] = a / 32 := by omega
  exact this ▸ List.getElem_mem hjl

/-- Captured words stand in the read cells alone (R72, R93). -/
theorem storeCaptured_outside (hm : MemLaw s) (hp : PoolLaw s) (i : SlotId) (din : List Bool) {n : Nat} (hn : n ≤ capturedWords (s.slot i))
    {a : Nat} (ha : a / 32 ∉ (s.slot i).readCells) : readByte (storeCaptured i din n s).mem a = readByte s.mem a := by
  refine readByte_storeBytes_outside ?_ hm ha
  rw [capturedBytes_length]
  exact captured_fit hp i hn

/-- What the read cells hold after captured words are stored: those words, and past them what they held (R72, R79). -/
theorem storeCaptured_after (hm : MemLaw s) (hp : PoolLaw s) (i : SlotId) (din : List Bool) {n : Nat} (hn : n ≤ capturedWords (s.slot i)) :
    loadBytes (s.slot i).readCells (capturedWords (s.slot i) * (s.slot i).wordBytes) (storeCaptured i din n s).mem =
      capturedBytes (s.slotRoute i) (s.slot i) din n ++
        (loadBytes (s.slot i).readCells (capturedWords (s.slot i) * (s.slot i).wordBytes) s.mem).drop (n * (s.slot i).wordBytes) :=
  storeCaptured_load din hm (readCells_of_poolLaw hp i).1 (Nat.mul_le_mul_right _ hn) (captured_fit hp i le_rfl)

/-- A captured word is found at its place in the read cells (R72). -/
theorem storeCaptured_word (hm : MemLaw s) (hp : PoolLaw s) (i : SlotId) (din : List Bool) {n j : Nat} (hn : n ≤ capturedWords (s.slot i))
    (hj : j < n) :
    ((loadBytes (s.slot i).readCells (capturedWords (s.slot i) * (s.slot i).wordBytes) (storeCaptured i din n s).mem).drop
        (j * (s.slot i).wordBytes)).take (s.slot i).wordBytes =
      beBytes (s.slot i).wordBytes (capturedWord (s.slotRoute i) (s.slot i) din j) := by
  have hroom : (j + 1) * (s.slot i).wordBytes ≤ n * (s.slot i).wordBytes := Nat.mul_le_mul_right _ hj
  rw [Nat.succ_mul] at hroom
  rw [storeCaptured_after hm hp i din hn, List.drop_append_of_le_length (by rw [capturedBytes_length]; omega),
    List.take_append_of_le_length (by rw [List.length_drop, capturedBytes_length]; omega), capturedBytes_word din hj]

end

/-- Settles O26: both halves store captured words in the read cells, all of them or those captured whole by then. -/
theorem capturedWords_holds : Obligations.CapturedWords := by
  refine ⟨fun s l din i hm hp hs hi => ?_, fun s i hm hp => ?_⟩
  · refine ⟨_, exec_endOfLastWord hs hi din, ?_⟩
    rw [judgeFlow_mem, decideOutcome_mem]
    exact ⟨fun j hj => storeCaptured_word hm hp i din le_rfl hj, fun a ha => storeCaptured_outside hm hp i din le_rfl ha⟩
  · intro size din n t after
    have hn : n ≤ capturedWords (s.slot i) := wordsCapturedBy_le _
    have ht : t = { storeCaptured i din n s with draws := s.draws + 1 } := rfl
    refine ⟨rfl, hn, fun j hj => storeCaptured_word hm hp i din hn hj, ?_, fun a ha => storeCaptured_outside hm hp i din hn ha⟩
    have hafter : after = loadBytes (s.slot i).readCells (capturedWords (s.slot i) * size) (storeCaptured i din n s).mem := rfl
    rw [hafter, storeCaptured_after hm hp i din hn, List.drop_left' (capturedBytes_length ..)]

/-! ### The pins -/

/-- The element at a place of pieces of one length joined. -/
theorem getElem?_flatMap_of_length {α β : Type} {f : α → List β} {w : Nat} (hw : 0 < w) {xs : List α} (hf : ∀ x ∈ xs, (f x).length = w)
    (k : Nat) : (xs.flatMap f)[k]? = xs[k / w]?.bind fun x => (f x)[k % w]? := by
  induction xs generalizing k with
  | nil => simp
  | cons x xs ih =>
    obtain ⟨hx, hxs⟩ := List.forall_mem_cons.1 hf
    rw [List.flatMap_cons]
    by_cases h : k < w
    · rw [List.getElem?_append_left (by omega), Nat.div_eq_of_lt h, Nat.mod_eq_of_lt h]
      rfl
    · obtain ⟨m, rfl⟩ : ∃ m, k = m + w := ⟨k - w, by omega⟩
      rw [List.getElem?_append_right (by omega), hx, Nat.add_sub_cancel, ih hxs, Nat.add_div_right m hw, Nat.add_mod_right]
      rfl

section
variable (s : State) (g : RouteConfig) (t : Slot)

theorem wordsOf_length (n wb : Nat) (bs : List Byte) : (wordsOf n wb bs).length = n := by simp [wordsOf]

theorem wordsOut_length : (wordsOut s g t).length = laneWords t := by
  unfold wordsOut laneWords writeWords
  cases t.shape <;> simp [wordsOf_length]

/-- Bit `k` on the lane is a bit of its word, the most significant first (R72). -/
theorem bitsOut_getElem? (hw : 1 ≤ g.wordSize) {k : Nat} (hk : k < laneBits g t) :
    (bitsOut s g t)[k]? = some (((wordsOut s g t).getD (k / g.wordSize) 0).testBit (g.wordSize - 1 - k % g.wordSize)) := by
  have hword : k / g.wordSize < (wordsOut s g t).length := by
    rw [wordsOut_length]
    exact Nat.div_lt_of_lt_mul (by rwa [laneBits, Nat.mul_comm] at hk)
  have hbit : k % g.wordSize < g.wordSize := Nat.mod_lt _ hw
  rw [bitsOut, getElem?_flatMap_of_length hw fun x _ => by simp [wordBits], List.getElem?_eq_getElem hword]
  simp [wordBits, hbit, List.getD_eq_getElem?_getD, List.getElem?_eq_getElem hword]

/-- The data input is captured half a bit period and the sample delay after a bit period began, at either edge (R71, R74). -/
theorem captureTime_eq (k : Nat) :
    captureTime g k = g.clockDivisor / 2 + k * g.clockDivisor + g.clockDivisor / 2 + g.sampleDelay := by
  unfold captureTime bitStart firstEdge secondEdge
  cases g.captureEdge <;> rfl

theorem firstCaptureBit_eq : firstCaptureBit g t = if t.shape = .commandRead then t.writeCount * g.wordSize else 0 := by
  unfold firstCaptureBit
  cases t.shape <;> rfl

theorem capturedWord_lt (din : List Bool) (j : Nat) : capturedWord g t din j < 2 ^ g.wordSize := by
  have := bitsToNat_lt ((List.range g.wordSize).map fun b =>
    din.getD (captureTime g (firstCaptureBit g t + j * g.wordSize + b)) false)
  simpa [capturedWord] using this

theorem capturedWord_testBit (din : List Bool) (j : Nat) {b : Nat} (hb : b < g.wordSize) :
    (capturedWord g t din j).testBit (g.wordSize - 1 - b) =
      din.getD (captureTime g (firstCaptureBit g t + j * g.wordSize + b)) false := by
  have := bitsToNat_testBit ((List.range g.wordSize).map fun b =>
    din.getD (captureTime g (firstCaptureBit g t + j * g.wordSize + b)) false) b (by simpa using hb)
  simpa [capturedWord] using this

end

section
variable {s : State} {l : LaneId} {i : SlotId} {g : RouteConfig} {t : Slot}

theorem shiftingSlot_of_shifting (hs : (s.lane l).state = .shifting) (hi : (s.lane l).current = some i) :
    shiftingSlot s l = some (s.slotRoute i, s.slot i) := by
  unfold shiftingSlot
  simp only [hs, hi]

/-- Between the two edges of a bit period: its second half for capture FIRST, its first half for capture SECOND (R71). -/
theorem between_edges_iff {time : Nat} (ht : time < g.clockDivisor) : firstEdge g ≤ time ∧ time < secondEdge g ↔
    (g.captureEdge = .first ∧ g.clockDivisor / 2 ≤ time) ∨ (g.captureEdge = .second ∧ time < g.clockDivisor / 2) := by
  unfold firstEdge secondEdge
  cases g.captureEdge <;> simp [ht]

/-- The clock within bit period `k` of an attempt: away from its idle level between its two edges (R71, R74). -/
theorem clockPin_in_bit (hr : s.resetLine = false) (hs : shiftingSlot s l = some (g, t)) {k time : Nat} (hk : k < laneBits g t)
    (ht : time < g.clockDivisor) :
    clockPin s l (g.clockDivisor / 2 + k * g.clockDivisor + time) =
      PinLevel.ofLevel (if firstEdge g ≤ time ∧ time < secondEdge g then g.idleLevel.other else g.idleLevel) := by
  have hat : g.clockDivisor / 2 + k * g.clockDivisor + time - bitStart g 0 = time + k * g.clockDivisor := by
    unfold bitStart
    omega
  have hdiv : (time + k * g.clockDivisor) / g.clockDivisor = k := by
    rw [Nat.add_mul_div_right _ _ (by omega), Nat.div_eq_of_lt ht, Nat.zero_add]
  have hmod : (time + k * g.clockDivisor) % g.clockDivisor = time := by
    rw [Nat.add_mul_mod_self_right, Nat.mod_eq_of_lt ht]
  have hle : bitStart g 0 ≤ g.clockDivisor / 2 + k * g.clockDivisor + time := by
    unfold bitStart
    omega
  simp only [clockPin, hr, hs, hat, hdiv, hmod, hle, hk, true_and, Bool.false_eq_true, if_false]
  split <;> rfl

/-- Before the first bit period and after the last the clock is at its idle level (R71, R74). -/
theorem clockPin_outside_bits (hr : s.resetLine = false) (hs : shiftingSlot s l = some (g, t)) (hd : 2 ≤ g.clockDivisor) {time : Nat}
    (ht : time < g.clockDivisor / 2 ∨ g.clockDivisor / 2 + laneBits g t * g.clockDivisor ≤ time) :
    clockPin s l time = PinLevel.ofLevel g.idleLevel := by
  simp only [clockPin, hr, hs, Bool.false_eq_true, if_false]
  refine if_neg ?_
  rintro ⟨hle, hlt, -⟩
  have h0 : bitStart g 0 = g.clockDivisor / 2 := by simp [bitStart]
  rw [h0] at hle hlt
  rcases ht with ht | ht
  · omega
  · have := Nat.div_lt_iff_lt_mul (show 0 < g.clockDivisor by omega) |>.1 hlt
    omega

theorem dataPin_in_bit (hr : s.resetLine = false) (hs : shiftingSlot s l = some (g, t)) (hw : 1 ≤ g.wordSize) {k time : Nat}
    (hk : k < laneBits g t) (ht : time < g.clockDivisor) :
    dataPin s l (g.clockDivisor / 2 + k * g.clockDivisor + time) = some
      (if ((wordsOut s g t).getD (k / g.wordSize) 0).testBit (g.wordSize - 1 - k % g.wordSize) then .high else .low) := by
  have h0 : bitStart g 0 = g.clockDivisor / 2 := by simp [bitStart]
  have hdiv : (g.clockDivisor / 2 + k * g.clockDivisor + time - g.clockDivisor / 2) / g.clockDivisor = k := by
    rw [show g.clockDivisor / 2 + k * g.clockDivisor + time - g.clockDivisor / 2 = time + k * g.clockDivisor by omega,
      Nat.add_mul_div_right _ _ (by omega), Nat.div_eq_of_lt ht, Nat.zero_add]
  simp only [dataPin, hr, hs, h0, hdiv, bitsOut_getElem? s g t hw hk, Bool.false_eq_true, if_false, Option.map_some]
  rw [if_neg (by omega)]

end

/-- Settles O27, from the levels outside an attempt, its length, the levels within a bit period, and the bits of a captured word. -/
theorem shiftedBits : Obligations.ShiftedBits := by
  refine ⟨fun s l time hr hs => ?outside, fun g t hd he => attemptPeriods_eq he, fun s l i hr hs hi => ?shifting⟩
  case outside =>
    refine ⟨clockPin_of_not_shifting hr hs time, dataPin_of_not_shifting hr hs time, fun hlaw k => ?_⟩
    obtain ⟨-, -, -, -, hselects, -, -⟩ := hlaw
    simp [selectPin, hr, hselects hs]
  case shifting =>
    intro g t d hd he hw
    have hshift := shiftingSlot_of_shifting hs hi
    refine ⟨fun k time hk ht => ⟨?_, dataPin_in_bit hr hshift hw hk ht⟩, fun time ht => clockPin_outside_bits hr hshift hd ht,
      fun k => by simp [selectPin, hr], fun din j b hb => ⟨?_, capturedWord_lt g t din j⟩⟩
    · rw [clockPin_in_bit hr hshift hk ht]
      simp only [between_edges_iff (g := s.slotRoute i) ht]
      rfl
    · rw [capturedWord_testBit g t din j hb, captureTime_eq, firstCaptureBit_eq]

/-! ### Contention -/

section
variable {s : State} {l : LaneId} {i : SlotId}

/-- The words captured before a claim stand in the read cells of a shifting attempt, and nothing else changes (R79). -/
theorem captureUntilClaim_of_current (hi : (s.lane l).current = some i) (din : List Bool) : captureUntilClaim l din s =
    { s with
      mem := if (s.lane l).state = .shifting then
          storeBytes (s.slot i).readCells 0
            (capturedBytes (s.slotRoute i) (s.slot i) din (wordsCapturedBy (s.slotRoute i) (s.slot i) din.length)) s.mem
        else s.mem } := by
  by_cases hs : (s.lane l).state = .shifting
  · simp only [captureUntilClaim, hs, hi, if_true]
    rfl
  · rw [captureUntilClaim_of_not_shifting hs, if_neg hs]

theorem claimActs_of_attempt (h : (s.lane l).state = .readyWait ∨ (s.lane l).state = .shifting) : claimActs l s = contentionAbort l s := by
  unfold claimActs
  rcases h with h | h <;> simp only [h]

end

/-- Settles O30: the abort is the retry or the decision on the state with the lane yielded; a watched claim in an attempt is that abort. -/
theorem contentionAbort_holds : Obligations.ContentionAbort := by
  refine ⟨fun s l i hi => ?_, fun s l din i hw hs hi => ?_⟩
  · intro g u
    rw [contentionAbort_of_current s hi]
    rfl
  · set s1 := s.setLane l { s.lane l with claimIn := true } with hs1
    have hexec : exec (.claimAssert l din) s = .next (if (s.lane l).claimWatch = true then claimActs l (captureUntilClaim l din s1) else s1) := rfl
    have hlane : s1.lane l = { s.lane l with claimIn := true } := by simp [hs1]
    have hcurrent : (s1.lane l).current = some i := by rw [hlane]; exact hi
    have hstate : (s1.lane l).state = (s.lane l).state := by rw [hlane]
    rw [hexec, if_pos hw, captureUntilClaim_of_current hcurrent din, hstate, claimActs_of_attempt]
    · rfl
    · exact hstate ▸ hs

end Sys2Proof.Machine

/-!
PROOFS. The settings and acknowledgement of events, the reset of the device, and the two formats of a slot and of a route entry:
O34, O46, O47, O48, O51.
-/
namespace Sys2Proof.Machine

open Sys2Proof.Safety

/-! ### SET_EVENTS -/

section
variable {s : State} {q : MgmtRequest} {rest : List MgmtRequest} {lease : Nat} {operands : List Byte}

theorem exec_setEvents (s : State) : exec .setEvents s = .next (serve opSetEvents s) := rfl

/-- A new destination ends the event in progress (R165). -/
theorem EventUnit.resettle_of_new {old : Option Destination} {e : EventUnit} (h : e.destination ≠ old) (sending : Bool) :
    e.resettle old sending = e.endEvent.unreport := if_pos h

theorem EventUnit.resettle_of_quiet {old : Option Destination} {e : EventUnit} (h : e.destination = old) (hs : e.state = .quiet)
    (sending : Bool) : e.resettle old sending = e := by
  rw [EventUnit.resettle, if_neg (not_not_intro h), hs]

/-- With the destination unchanged a request that the new mask leaves without cause is withdrawn (R165). -/
theorem EventUnit.resettle_of_requested {old : Option Destination} {e : EventUnit} (h : e.destination = old) (hs : e.state = .requested)
    (sending : Bool) : e.resettle old sending = if e.hasNews then e else { e with state := .quiet, request := false } := by
  rw [EventUnit.resettle, if_neg (not_not_intro h), hs]

/-- With the destination unchanged an outstanding event goes on, its repeat timer restarted unless its frame is being sent (R165). -/
theorem EventUnit.resettle_of_outstanding {old : Option Destination} {e : EventUnit} (h : e.destination = old) (hs : e.state = .outstanding)
    (sending : Bool) : e.resettle old sending = if sending then e else e.startRepeat := by
  rw [EventUnit.resettle, if_neg (not_not_intro h), hs]

/-- Settling the event in progress leaves the settings (R165). -/
theorem EventUnit.resettle_settings (old : Option Destination) (sending : Bool) (e : EventUnit) :
    (e.resettle old sending).mask = e.mask ∧ (e.resettle old sending).destination = e.destination ∧
    (e.resettle old sending).repeatInterval = e.repeatInterval := by
  unfold EventUnit.resettle
  split
  · exact ⟨rfl, rfl, rfl⟩
  · cases e.state <;> dsimp only
    · exact ⟨rfl, rfl, rfl⟩
    · split <;> exact ⟨rfl, rfl, rfl⟩
    · split <;> exact ⟨rfl, rfl, rfl⟩

theorem exec_setEvents_badValue (ht : Taking s q rest) (hh : Holds s q lease) (hl : operands.length = 12) (hc : Carries q 18 operands)
    (h : 511 < fieldAt operands 0 2 ∨ SpellsNone (operands.drop 2)) :
    exec .setEvents s = .next (withAgent s (answered s q rest .badValue [])) := by
  have hrun : runSetEvents q.source operands (taken s rest) = failWith .badValue (taken s rest) := by
    unfold runSetEvents
    split
    · rfl
    · next hm => rw [readDestination_of_spellsNone (h.resolve_left hm)]
  rw [exec_setEvents, serve_of_holder_refused (op := opSetEvents) ht hc (by decide) hl rfl hh.1 hrun (by decide)]

/-- An accepted SET_EVENTS settles the event in progress under the new settings and judges a request (R165). -/
theorem exec_setEvents_stored {dest : Option Destination} (ht : Taking s q rest) (hh : Holds s q lease) (hl : operands.length = 12)
    (hc : Carries q 18 operands) (hm : fieldAt operands 0 2 ≤ 511) (hd : Spells (operands.drop 2) dest) :
    exec .setEvents s = .next { s with
      agent := renewed s q rest lease (beBytes 2 (fieldAt operands 0 2) ++ destinationBytes dest ++ beBytes 2 (fieldAt operands 10 2))
      events := (EventUnit.resettle s.events.destination (eventFrameOnOutput s)
        { s.events with mask := BitVec.ofNat 9 (fieldAt operands 0 2), destination := dest
                        repeatInterval := fieldAt operands 10 2 }).judge s.receiver.link } := by
  set u := applyEvents (BitVec.ofNat 9 (fieldAt operands 0 2)) dest (fieldAt operands 10 2) (taken s rest) with hu
  have hrun : runSetEvents q.source operands (taken s rest) = doneWith (eventSettingsBytes u.events) u := by
    rw [runSetEvents, if_neg (by omega), readDestination_of_spells hd]
  have hevents : u.events = (EventUnit.resettle s.events.destination (eventFrameOnOutput s)
      { s.events with mask := BitVec.ofNat 9 (fieldAt operands 0 2), destination := dest
                      repeatInterval := fieldAt operands 10 2 }).judge s.receiver.link := rfl
  have hbytes : eventSettingsBytes u.events =
      beBytes 2 (fieldAt operands 0 2) ++ destinationBytes dest ++ beBytes 2 (fieldAt operands 10 2) := by
    obtain ⟨h1, h2, h3⟩ := EventUnit.resettle_settings s.events.destination (eventFrameOnOutput s)
      { s.events with mask := BitVec.ofNat 9 (fieldAt operands 0 2), destination := dest, repeatInterval := fieldAt operands 10 2 }
    have hmask : (BitVec.ofNat 9 (fieldAt operands 0 2)).toNat = fieldAt operands 0 2 := by
      rw [BitVec.toNat_ofNat]
      omega
    simp only [eventSettingsBytes, hevents, EventUnit.judge_mask, EventUnit.judge_destination, EventUnit.judge_repeatInterval, h1, h2, h3,
      hmask]
  rw [exec_setEvents, serve_of_holder_done (op := opSetEvents) ht hc (by decide) hl rfl hh hrun rfl, hbytes]
  rfl

theorem eventFrameOnOutput_iff {number : BitVec 8} (ho : s.events.outstanding = some number) :
    eventFrameOnOutput s = true ↔ ∃ f, s.trans.output = some f ∧ f.requester = .event number := by
  unfold eventFrameOnOutput
  cases hf : s.trans.output <;> simp [ho]

end

/-- Settles O46: the stored settings, the event in progress settled by its state, then one judgement. -/
theorem setEvents : Obligations.SetEvents := by
  intro s q rest lease operands ht hh hl hc mask interval
  refine ⟨exec_setEvents_badValue ht hh hl hc, fun dest hm hd => ?_⟩
  intro e settled
  have hexec := exec_setEvents_stored ht hh hl hc hm hd
  have hsettled : ∀ e', e'.destination = dest → e.resettle s.events.destination (eventFrameOnOutput s) = e' →
      exec .setEvents s = settled e' := by
    intro e' hdest he
    have hjudge : e'.judge s.receiver.link =
        if e'.state = .quiet ∧ dest.isSome = true ∧ s.receiver.link = .up ∧ e'.hasNews = true then
          { e' with state := .requested, request := true }
        else e' := by
      rw [EventUnit.judge, hdest]
    refine hexec.trans (congrArg (fun x => Host.Outcome.next { s with
      agent := renewed s q rest lease (beBytes 2 mask ++ destinationBytes dest ++ beBytes 2 interval), events := x }) ?_)
    exact (congrArg _ he).trans hjudge
  refine ⟨fun hne => hsettled _ rfl (EventUnit.resettle_of_new hne _), fun heq => ⟨fun hs => hsettled _ rfl ?quiet, fun hs => hsettled _ ?_ ?requested,
    fun number hs ho => ⟨fun hf => hsettled _ rfl ?sending, fun hf => hsettled _ rfl ?sent⟩⟩⟩
  case quiet => exact EventUnit.resettle_of_quiet (e := e) heq hs _
  case requested => exact EventUnit.resettle_of_requested (e := e) heq hs _
  case sending =>
    rw [EventUnit.resettle_of_outstanding (e := e) heq hs]
    exact if_pos ((eventFrameOnOutput_iff ho).2 hf)
  case sent =>
    have hnot : ¬ eventFrameOnOutput s = true := fun h => by
      obtain ⟨f, h1, h2⟩ := (eventFrameOnOutput_iff ho).1 h
      exact hf f h1 h2
    rw [EventUnit.resettle_of_outstanding (e := e) heq hs, if_neg hnot]
    rfl
  · split <;> rfl

/-! ### ACK_EVENTS -/

section
variable {s : State} {q : MgmtRequest} {rest : List MgmtRequest} {number z : Byte} {named : Nat}

theorem exec_ackEvents (s : State) : exec .ackEvents s = .next (serve opAckEvents s) := rfl

/-- The operands of ACK_EVENTS as they are read (10.4). -/
theorem ackOperands (hn : named < 65536) :
    ([number, z] ++ beBytes 2 named).length = 4 ∧ byteAt ([number, z] ++ beBytes 2 named) 0 = number.toNat ∧
    fieldAt ([number, z] ++ beBytes 2 named) 2 2 = named :=
  ⟨rfl, rfl, fieldAt_beBytes_two hn⟩

theorem exec_ackEvents_refused {r : MgmtResult} (ht : Taking s q rest) (hc : Carries q 19 ([number, z] ++ beBytes 2 named))
    (hr : runAckEvents q.source ([number, z] ++ beBytes 2 named) (taken s rest) = failWith r (taken s rest)) :
    exec .ackEvents s = .next (withAgent s (answered s q rest r [])) := by
  rw [exec_ackEvents, serve_of_refused (op := opAckEvents) ht hc (by decide) rfl rfl hr]

theorem acknowledge_cond (n : BitVec 9) (e : EventUnit) (c : Condition) :
    (acknowledge n e).cond c = if ackClears n e c then .clear else e.cond c := by
  simp [acknowledge, EventUnit.cond, ackClears]

/-- An acknowledgement clears what it names that is set and reported (R166). -/
theorem ackClears_iff (e : EventUnit) (c : Condition) :
    ackClears (BitVec.ofNat 9 named) e c = true ↔ named.testBit c.index.val = true ∧ e.cond c = .reported := by
  have hbit : (BitVec.ofNat 9 named).getLsbD c.index.val = named.testBit c.index.val := by
    rw [BitVec.getLsbD_ofNat]
    simp [c.index.isLt]
  simp only [ackClears, hbit, Bool.and_eq_true, beq_iff_eq]

end

/-- Settles O47: the three checks in their order, then the acknowledgement, the end of the event and one judgement. -/
theorem ackEvents : Obligations.AckEvents := by
  intro s q rest number z named ht hn hc
  obtain ⟨hlen, hbyte, hfield⟩ := ackOperands (number := number) (z := z) hn
  refine ⟨fun h => ?_, fun hle hsrc => ?_, fun d hle hd hsrc => ⟨fun hout => ?_, fun hout => ?_⟩⟩
  · refine exec_ackEvents_refused ht hc ?_
    rw [runAckEvents, hfield, if_pos h]
  · refine exec_ackEvents_refused ht hc ?_
    rw [runAckEvents, hfield, if_neg (by omega)]
    cases hd : (taken s rest).events.destination with
    | none => rfl
    | some d => exact if_pos (hsrc d hd)
  · refine exec_ackEvents_refused ht hc ?_
    have hd' : (taken s rest).events.destination = some d := hd
    have hnum : BitVec.ofNat 8 number.toNat = number := by simp
    rw [runAckEvents, hfield, if_neg (by omega), hd', hbyte, hnum]
    simp only [hsrc, ne_eq, not_true_eq_false, if_false]
    exact if_pos hout
  · set e := (acknowledge (BitVec.ofNat 9 named) s.events).endEvent with he
    set u : State := { taken s rest with events := e.judge s.receiver.link } with hu
    have hrun : runAckEvents q.source ([number, z] ++ beBytes 2 named) (taken s rest) = doneWith (beBytes 2 e.setMembers.toNat) u := by
      have hd' : (taken s rest).events.destination = some d := hd
      have hnum : BitVec.ofNat 8 number.toNat = number := by simp
      rw [runAckEvents, hfield, if_neg (by omega), hd', hbyte, hnum]
      simp only [hsrc, ne_eq, not_true_eq_false, if_false]
      exact if_neg (not_not_intro hout)
    have hmembers : (e.judge s.receiver.link).setMembers = e.setMembers := by
      simp only [EventUnit.setMembers, EventUnit.judge_conditions]
    have hexec : exec .ackEvents s = .next { s with
        events := e.judge s.receiver.link
        agent := answered s q rest .done (beBytes 2 (e.judge s.receiver.link).setMembers.toNat) } := by
      rw [exec_ackEvents, serve_of_free (op := opAckEvents) ht hc (by decide) rfl rfl]
      change Host.Outcome.next (withAgent (runAckEvents q.source ([number, z] ++ beBytes 2 named) (taken s rest)).state
        (responding (runAckEvents q.source ([number, z] ++ beBytes 2 named) (taken s rest)).state.agent s q
          (runAckEvents q.source ([number, z] ++ beBytes 2 named) (taken s rest)).result
          (runAckEvents q.source ([number, z] ++ beBytes 2 named) (taken s rest)).fields)) = _
      rw [hrun, hmembers]
      rfl
    have hclears : ∀ c, ackClears (BitVec.ofNat 9 named) s.events c = true ↔
        named.testBit c.index.val = true ∧ s.events.cond c = .reported := ackClears_iff s.events
    refine ⟨_, hexec, ?_⟩
    refine ⟨rfl, ?frame, fun c => ⟨fun h => ?cleared, fun h => ?stands⟩, fun h => ?_, fun h => ?_, fun h => ?_, fun h => ?_, fun h => ?_,
      fun h => ?_, ?judged⟩
    case frame =>
      dsimp only
      rw [EventUnit.judge_eq]
      rfl
    case cleared =>
      dsimp only
      rw [EventUnit.judge_cond, he, EventUnit.endEvent_cond, acknowledge_cond, if_pos ((hclears c).2 h)]
    case stands =>
      dsimp only
      rw [EventUnit.judge_cond, he, EventUnit.endEvent_cond, acknowledge_cond, if_neg (mt (hclears c).1 h)]
    case judged =>
      dsimp only
      rw [EventUnit.judge_hasNews]
      have hdest : e.destination.isSome = true := by rw [Option.isSome_iff_exists]; exact ⟨d, hd⟩
      split
      · next h => rw [EventUnit.judge_of_news e ⟨rfl, hdest, h⟩]; exact ⟨rfl, rfl⟩
      · next h => rw [EventUnit.judge_of_none e fun hc => h hc.2.2]; exact ⟨rfl, rfl⟩
    all_goals dsimp only
    · rw [EventUnit.judge_contentionSet]; exact if_pos ((hclears _).2 h)
    · rw [EventUnit.judge_contentionSet]; exact if_neg (mt (hclears _).1 h)
    · rw [EventUnit.judge_timeoutSet]; exact if_pos ((hclears _).2 h)
    · rw [EventUnit.judge_timeoutSet]; exact if_neg (mt (hclears _).1 h)
    · rw [EventUnit.judge_drained]; exact if_pos ((hclears _).2 h)
    · rw [EventUnit.judge_drained]; exact if_neg (mt (hclears _).1 h)

/-! ### DEVICE_RESET -/

section
variable {s : State}

theorem strayIfShifting_of_not_shifting {l : LaneId} (h : (s.lane l).state ≠ .shifting) : strayIfShifting l s = s := by
  unfold strayIfShifting
  split
  · next hs _ => exact absurd hs h
  · rfl

theorem strayIfShifting_of_shifting {l : LaneId} {i : SlotId} (hs : (s.lane l).state = .shifting) (hi : (s.lane l).current = some i) :
    strayIfShifting l s = strayCaptures i s := by
  unfold strayIfShifting
  simp only [hs, hi]

theorem strayIfShifting_of_none {l : LaneId} (hi : (s.lane l).current = none) : strayIfShifting l s = s := by
  unfold strayIfShifting
  split
  · next hs => simp [hi] at hs
  · rfl

/-- A byte that no stopped attempt has among its read cells. -/
def Unread (s : State) (a : Nat) : Prop :=
  ∀ l i, (s.lane l).state = .shifting → (s.lane l).current = some i → a / 32 ∉ (s.slot i).readCells

/-- An attempt stopped at an open moment writes in its own read cells alone (log 2). -/
theorem strayIfShifting_readByte (hm : MemLaw s) (hp : PoolLaw s) {a : Nat} (l : LaneId)
    (ha : ∀ i, (s.lane l).state = .shifting → (s.lane l).current = some i → a / 32 ∉ (s.slot i).readCells) :
    readByte (strayIfShifting l s).mem a = readByte s.mem a := by
  by_cases hs : (s.lane l).state = .shifting
  · cases hi : (s.lane l).current with
    | none => rw [strayIfShifting_of_none hi]
    | some i =>
      rw [strayIfShifting_of_shifting hs hi]
      exact storeCaptured_outside hm hp i _ (wordsCapturedBy_le _) (ha i hs hi)
  · rw [strayIfShifting_of_not_shifting hs]

theorem foldl_stray_of_not_shifting (ls : List LaneId) (h : ∀ l, (s.lane l).state ≠ .shifting) :
    ls.foldl (fun t l => strayIfShifting l t) s = s := by
  induction ls with
  | nil => rfl
  | cons l ls ih => rw [List.foldl_cons, strayIfShifting_of_not_shifting (h l), ih]

/-- Attempts stopped together write in their own read cells alone (log 2). -/
theorem foldl_stray_readByte (ls : List LaneId) (hm : MemLaw s) (hp : PoolLaw s) {a : Nat} (ha : Unread s a) :
    readByte (ls.foldl (fun t l => strayIfShifting l t) s).mem a = readByte s.mem a := by
  induction ls generalizing s with
  | nil => rfl
  | cons l ls ih =>
    have hslot : ∀ i, (strayIfShifting l s).slot i = s.slot i := fun i => by simp [State.slot]
    have hlane : ∀ m, (strayIfShifting l s).lane m = s.lane m := fun m => by rw [lane_of_lanes]; simp
    have hp' : PoolLaw (strayIfShifting l s) := by
      rw [strayIfShifting_eq]
      exact hp
    have ha' : Unread (strayIfShifting l s) a := fun m i hs hi => by
      rw [hlane] at hs hi
      rw [hslot]
      exact ha m i hs hi
    rw [List.foldl_cons, ih (strayIfShifting_memLaw l hm) hp' ha', strayIfShifting_readByte hm hp l (ha l)]

theorem withAgent_lane (s : State) (a : Agent) (l : LaneId) : (withAgent s a).lane l = s.lane l := rfl

theorem withAgent_mem (s : State) (a : Agent) : (withAgent s a).mem = s.mem := rfl

theorem withAgent_draws (s : State) (a : Agent) : (withAgent s a).draws = s.draws := rfl

theorem deviceReset_draws (s : State) : (deviceReset s).draws = ((List.finRange 8).foldl (fun t l => strayIfShifting l t) s).draws := by
  rw [deviceReset_eq]

/-- A DONE of a source that holds no lock restarts no lease (R131, R148). -/
theorem restartLease_of_free {src : Source} (h : s.agent.holder ≠ some src) : restartLease src s = s := if_neg h

theorem exec_deviceReset (s : State) : exec .deviceReset s = .next (serve opDeviceReset s) := rfl

end

/-- Settles O48: the operation leaves the reset state, whose lock is free, and its answer stands in the buffer of it. -/
theorem deviceReset_holds : Obligations.DeviceReset := by
  intro s q rest ht hh hc
  have hfree : (deviceReset (taken s rest)).agent.holder ≠ some q.source := by
    rw [deviceReset_agent]
    simp [Agent.powerOn]
  have hrun : opDeviceReset.run q.source [] (taken s rest) = doneWith [] (deviceReset (taken s rest)) := rfl
  have hexec : exec .deviceReset s = .next (withAgent (deviceReset (taken s rest))
      (responding (deviceReset (taken s rest)).agent s q .done [])) := by
    rw [exec_deviceReset, serve_of_holder (op := opDeviceReset) ht hc (by decide) rfl rfl hh, hrun]
    simp only [doneWith, if_true, restartLease_of_free hfree]
  refine ⟨_, hexec, ?frame, fun l => ?lanes, fun h => ?still, fun hm hp a ha => ?cells⟩
  case frame =>
    rw [deviceReset_eq]
    simp only [withAgent, Transmitter.cutOff, Bool.and_eq_true, Bool.not_eq_true']
    rfl
  case lanes =>
    rw [withAgent_lane, deviceReset_lane]
    rfl
  case still =>
    have hfold := foldl_stray_of_not_shifting (s := taken s rest) (List.finRange 8) h
    refine ⟨?_, ?_⟩
    · rw [withAgent_mem, deviceReset_mem, hfold]
      rfl
    · rw [withAgent_draws, deviceReset_draws, hfold]
      rfl
  case cells =>
    rw [withAgent_mem, deviceReset_mem]
    exact foldl_stray_readByte (s := taken s rest) (List.finRange 8) hm hp ha

/-! ### The formats of a slot and of a route entry -/

/-- Settles O34: the words of OK are loaded from the read cells, which have room for them; any other outcome carries none. -/
theorem responseContents : Obligations.ResponseContents := by
  refine ⟨fun s i hp ho => ?_, fun s m i o ho hne => ?_⟩
  · intro t
    refine ⟨loadBytes t.readCells (t.readCount * t.wordBytes) s.mem, ?_, by simp [loadBytes], fun k hk => ?_⟩
    · simp only [slotResponse, responseWords, t, ho, if_true, Option.map_some, Option.getD_some]
      rfl
    · have hk : k < t.readCount * t.wordBytes := by simpa [loadBytes] using hk
      have hroom : k / 32 < t.readCells.length := by
        rw [(readCells_of_poolLaw hp i).2]
        unfold cellsFor
        change k < (s.slot i).readCount * (s.slot i).wordBytes at hk
        omega
      refine ⟨t.readCells[k / 32], List.getElem?_eq_getElem hroom, ?_⟩
      simp [loadBytes, hk, dataAddr, List.getElem?_eq_getElem hroom]
  · have hnot : (s.slot i).outcome ≠ some .ok := by simpa [ho] using hne
    have hwords : ∀ u, responseWords u (s.slot i) = [] := fun u => if_neg hnot
    refine ⟨?_, ?_⟩
    · simp only [slotResponse, hwords]
    · simp only [slotResponse, hwords, if_neg hnot]
      simp only [ho, Option.map_some, Option.getD_some]
      rfl

/-! ### The configuration block -/

theorem Shape.ofCode_code (g : Shape) : Shape.ofCode (BitVec.ofNat 8 g.code).toNat = some g := by cases g <;> rfl
theorem ReadyWait.ofCode_code (g : ReadyWait) : ReadyWait.ofCode (BitVec.ofNat 8 g.code).toNat = some g := by cases g <;> rfl
theorem ResponsePolicy.ofCode_code (g : ResponsePolicy) : ResponsePolicy.ofCode (BitVec.ofNat 8 g.code).toNat = some g := by cases g <;> rfl

theorem clockModeOf_code (idle : Level) (edge : CaptureEdge) :
    clockModeOf (BitVec.ofNat 8 (clockModeCode idle edge)).toNat = some (idle, edge) := by
  cases idle <;> cases edge <;> rfl

theorem counterSetOf_byte (k : Option SetId) : counterSetOf ((k.map fun k => BitVec.ofNat 8 k.val).getD 255).toNat = some k := by
  cases k with
  | none => rfl
  | some k =>
    have hlt := k.isLt
    have hval : (BitVec.ofNat 8 k.val).toNat = k.val := by
      rw [BitVec.toNat_ofNat]
      omega
    simp only [Option.map_some, Option.getD_some, hval, counterSetOf]
    rw [if_neg (by omega), dif_pos hlt]

/-- A number of one byte is read back from it. -/
theorem toNat_ofNat_byte {n : Nat} (h : n < 256) : (BitVec.ofNat 8 n).toNat = n := by
  rw [BitVec.toNat_ofNat]
  omega

section
variable (g : RouteConfig)

/-- The bytes of a configuration block by their places (10.5). -/
theorem byteAt_configBytes :
    byteAt (configBytes g) 2 = (BitVec.ofNat 8 g.lane.val).toNat ∧
    byteAt (configBytes g) 3 = (g.selects.setWidth 8).toNat ∧
    byteAt (configBytes g) 4 = (BitVec.ofNat 8 g.shape.code).toNat ∧
    byteAt (configBytes g) 5 = (BitVec.ofNat 8 g.wordSize).toNat ∧
    byteAt (configBytes g) 8 = (BitVec.ofNat 8 (clockModeCode g.idleLevel g.captureEdge)).toNat ∧
    byteAt (configBytes g) 9 = (BitVec.ofNat 8 g.sampleDelay).toNat ∧
    byteAt (configBytes g) 18 = (BitVec.ofNat 8 g.readyWait.code).toNat ∧
    byteAt (configBytes g) 21 = (BitVec.ofNat 8 g.retryLimit).toNat ∧
    byteAt (configBytes g) 22 = (BitVec.ofNat 8 g.responsePolicy.code).toNat ∧
    byteAt (configBytes g) 33 = ((g.counterSet.map fun k => BitVec.ofNat 8 k.val).getD 255).toNat :=
  by simp [configBytes, byteAt, beBytes]

/-- The fields of more than one byte of a configuration block by their places (10.5). -/
theorem fieldAt_configBytes :
    fieldAt (configBytes g) 0 2 = beNat (beBytes 2 g.label) ∧
    fieldAt (configBytes g) 6 2 = beNat (beBytes 2 g.clockDivisor) ∧
    fieldAt (configBytes g) 10 4 = beNat (beBytes 4 g.fillWord.toNat) ∧
    fieldAt (configBytes g) 14 2 = beNat (beBytes 2 g.maxWrite) ∧
    fieldAt (configBytes g) 16 2 = beNat (beBytes 2 g.maxRead) ∧
    fieldAt (configBytes g) 19 2 = beNat (beBytes 2 g.readyTimeout) ∧
    fieldAt (configBytes g) 23 2 = beNat (beBytes 2 g.replyLabel) ∧
    fieldAt (configBytes g) 25 8 = beNat (beBytes 8 g.permitted.toNat) :=
  by simp [configBytes, fieldAt, beBytes]

end

/-- Settles O51: every field stands at its place, and fits it by the checks of R11. -/
theorem configRoundTrip : Obligations.ConfigRoundTrip := by
  intro g hv ht
  refine ⟨by simp [configBytes], ?_⟩
  obtain ⟨⟨-, hlabel⟩, -, -, ⟨-, hword⟩, ⟨-, hdiv, -⟩, hdelay, ⟨hwrite, hread⟩, -, -, -, -, -, -, hretry, -, hreply⟩ := hv
  obtain ⟨b2, b3, b4, b5, b8, b9, b18, b21, b22, b33⟩ := byteAt_configBytes g
  obtain ⟨f0, f6, f10, f14, f16, f19, f23, f25⟩ := fieldAt_configBytes g
  rw [beNat_beBytes_of_lt (by omega)] at f0 f6 f14 f16 f19 f23
  rw [beNat_beBytes_of_lt (g.fillWord.isLt.trans_le (by decide))] at f10
  rw [beNat_beBytes_of_lt (g.permitted.isLt.trans_le (by decide))] at f25
  have hlane := g.lane.isLt
  have hselects : (g.selects.setWidth 8).toNat = g.selects.toNat := by
    rw [BitVec.toNat_setWidth]
    have := g.selects.isLt
    omega
  rw [toNat_ofNat_byte (by omega)] at b2 b5 b9 b21
  rw [hselects] at b3
  have hrange : ¬ (byteAt (configBytes g) 2 > 7 ∨ byteAt (configBytes g) 3 > 15) := by
    have := g.selects.isLt
    omega
  rw [b2, b3] at hrange
  simp only [readConfig, b4, b8, b18, b22, b33, Shape.ofCode_code, ReadyWait.ofCode_code, ResponsePolicy.ofCode_code, clockModeOf_code,
    counterSetOf_byte, Option.bind_eq_bind, Option.bind_some, b2, b3, if_neg hrange, b5, b9, b21, f0, f6, f10, f14, f16, f19, f23, f25]
  simp

end Sys2Proof.Machine

/-!
PROOFS. Frames taken whole, and what Admission does with the frame at the head of its list: O11, O12, O13, O19, O20, O21, O22.
-/
namespace Sys2Proof.Machine

open Sys2Proof.Safety

/-! ### Frames taken whole -/

section
variable {s : State}

/-- With no frame waiting for Admission, the bytes that arrived are judged at once (R23, R111). -/
theorem exec_frameTakenWhole_of_empty (hr : s.receiver.reception = some Reception.start) (ha : s.receiver.admission = []) (bytes : List Byte) :
    exec (.frameTakenWhole bytes) s = .next (judgeReception (bytes.foldl Reception.byte .start) (endReception s)) := by
  rw [exec_frameTakenWhole bytes hr, admitAll_nil ha]

/-- A frame built within the limits passes every check and is dispatched by its kind (R111 to R115). -/
theorem exec_frameTakenWhole_built {kind : Nat} {labels : List Nat} {body : List Byte} (hform : InboundForm s kind labels body)
    (hk : 1 ≤ kind ∧ kind ≤ 4) (hr : s.receiver.reception = some Reception.start) (ha : s.receiver.admission = [])
    (source : Source) (sequence : BitVec 16) :
    exec (.frameTakenWhole (buildFrame kind source sequence labels body)) s = .next
      (dispatch { kind := kind, source := source, sequence := sequence, labels := labels, body := body }
        (bumpDevice .framesReceived 1 (endReception s))) := by
  obtain ⟨houter, ⟨h1, h3⟩, hlabels, hsize, hmax⟩ := hform
  have hbridge : isBridgeKind kind = true ↔ kind ≠ 1 := by
    simp only [isBridgeKind, kindCancel, kindMgmt, kindHold, Bool.or_eq_true, beq_iff_eq]
    omega
  have hz : labels.headD 0 = 0 → isBridgeKind kind = true := fun h0 => hbridge.2 fun hk1 => by
    rw [if_pos hk1] at houter
    omega
  have hb : isBridgeKind kind = true → labels.headD 0 = 0 := fun h => by rwa [if_neg (hbridge.1 h)] at houter
  obtain ⟨hmal, hcount, hparse⟩ := parseFrame_buildFrame (source := source) (sequence := sequence) (body := body)
    rfl (by omega) h1 h3 hlabels (by omega) hz hb
  rw [parseFrame_eq] at hparse
  have hlimit : ¬ (buildFrame kind source sequence labels body).length > frameLimit (endReception s).agent.maxFrame labels.length := by
    rw [buildFrame_length, frameLimit, show (endReception s).agent = s.agent from rfl]
    omega
  rw [exec_frameTakenWhole_of_empty hr ha, judgeReception_bytes, crcFails_buildFrame, hparse]
  simp only [Bool.false_eq_true, if_false]
  rw [if_neg hlimit, if_neg (by omega)]

end

/-- Settles O11: a built frame is dispatched to the admission list; where a frame waits, its taking is the first of the takings. -/
theorem requestFrameArrives : Obligations.RequestFrameArrives := by
  refine ⟨fun s isCancel source sequence labels body => ?_, fun s bytes w rest hr ha => ?_⟩
  · intro kind hform hr ha
    have hempty : (bumpDevice .framesReceived 1 (endReception s)).receiver.admission = [] := ha
    cases isCancel
    · rw [exec_frameTakenWhole_built hform (by decide) hr ha]
      simp only [dispatch, joinAdmission, hempty, List.nil_append]
      rfl
    · rw [exec_frameTakenWhole_built hform (by decide) hr ha]
      simp only [dispatch, joinAdmission, hempty, List.nil_append]
      rfl
  · obtain ⟨r, hr⟩ := Option.isSome_iff_exists.1 hr
    refine ⟨admitNext s, exec_admitNext ha, ?_, ?_⟩
    · rw [admitNext_receiver, ha]
      rfl
    · have hr' : (admitNext s).receiver.reception = some r := by rw [admitNext_receiver]; exact hr
      rw [exec_frameTakenWhole bytes hr, exec_frameTakenWhole bytes hr', admitAll_cons ha]

/-- A HOLD with a body of four bytes is counted, and with react on sets the inbound hold timer (R103). -/
theorem inboundHoldArrival_of_four {f : InFrame} (hb : f.body.length = 4) (s : State) : inboundHoldArrival f s =
    { bumpDevice .holdsReceived 1 s with
      trans := { s.trans with inboundHold := if s.agent.react then fieldAt f.body 0 2 else s.trans.inboundHold } } := by
  unfold inboundHoldArrival
  rw [if_pos hb]
  cases s.agent.react <;> rfl

/-- Settles O12: a built MGMT or HOLD frame is dispatched to the agent or to the inbound hold timer. -/
theorem servedFrameArrives : Obligations.ServedFrameArrives := by
  intro s source sequence labels body hr ha
  refine ⟨fun hform => ?_, fun hform => ?_⟩
  · rw [exec_frameTakenWhole_built hform (by decide) hr ha]
    have hdispatch : ∀ t, dispatch { kind := 3, source := source, sequence := sequence, labels := labels, body := body } t =
        mgmtArrival { kind := 3, source := source, sequence := sequence, labels := labels, body := body } t := fun _ => rfl
    rw [hdispatch, mgmtArrival]
    by_cases hq : s.agent.queue.length < 4
    · rw [if_pos hq, if_pos (by exact hq)]
      rfl
    · rw [if_neg hq, if_neg (by exact hq)]
      rfl
  · rw [exec_frameTakenWhole_built hform (by decide) hr ha]
    have hdispatch : ∀ t, dispatch { kind := 4, source := source, sequence := sequence, labels := labels, body := body } t =
        inboundHoldArrival { kind := 4, source := source, sequence := sequence, labels := labels, body := body } t := fun _ => rfl
    rw [hdispatch]
    by_cases hb : body.length = 4
    · rw [inboundHoldArrival_of_four hb, if_pos hb]
      rfl
    · rw [inboundHoldArrival, if_neg hb, if_neg hb]
      rfl

/-- Settles O13: the judgement of the bytes, branch by branch. -/
theorem receiveChecks : Obligations.ReceiveChecks := by
  intro s bytes hr ha dropped limit
  have hexec := exec_frameTakenWhole_of_empty hr ha bytes
  rw [judgeReception_bytes] at hexec
  refine ⟨fun hcrc => ?crc, fun hcrc hmal => ?malformed, fun hcrc hmal hlong => ?oversize, fun hcrc hmal hshort hkind => ?unknown⟩
  case crc =>
    rw [hexec, if_pos hcrc]
    rfl
  case malformed =>
    rw [hexec, if_neg (by simp [hcrc]), if_pos hmal]
    rfl
  all_goals
    have hcount : ∃ n, labelCount bytes = some n := by
      cases hn : labelCount bytes with
      | none => simp [malformed, hn] at hmal
      | some n => exact ⟨n, rfl⟩
    obtain ⟨n, hn⟩ := hcount
    have hlimit : limit = frameLimit (endReception s).agent.maxFrame (readFrame bytes n).labels.length := by
      simp [limit, hn, frameLimit, readFrame, endReception]
  case oversize =>
    rw [hexec, if_neg (by simp [hcrc]), if_neg (by simp [hmal]), hn]
    simp only [Option.map_some]
    rw [if_pos (hlimit ▸ hlong)]
    rfl
  case unknown =>
    rw [hexec, if_neg (by simp [hcrc]), if_neg (by simp [hmal]), hn]
    simp only [Option.map_some]
    rw [if_neg (by rw [← hlimit]; omega), if_pos (show (readFrame bytes n).kind < 1 ∨ 4 < (readFrame bytes n).kind from hkind)]
    rfl

/-! ### Requests -/

section
variable {s : State} {w : WaitingFrame} {rest : List WaitingFrame}

/-- The state in which Admission judges the frame it has taken from the list (R23). -/
def admitting (s : State) (rest : List WaitingFrame) : State := { s with receiver := { s.receiver with admission := rest } }

theorem exec_request (ha : s.receiver.admission = w :: rest) (hc : w.isCancel = false) (hl : w.lost = false) :
    exec .request s = .next (judgeRequest w.frame (admitting s rest)) := by
  simp [exec, execRequest, takeWaiting, ha, hc, hl, admitting]

theorem exec_cancel (ha : s.receiver.admission = w :: rest) (hc : w.isCancel = true) (hl : w.lost = false) :
    exec .cancel s = .next (judgeCancel w.frame (admitting s rest)) := by
  simp [exec, execCancel, takeWaiting, ha, hc, hl, admitting]

/-- A request whose label finds an entry is not refused for want of a route (R25). -/
theorem firstRefusal_ne_noRoute {f : InFrame} {k : RouteId} (hk : lookup (f.labels.headD 0) s = some k) {reason : RefusalReason}
    (h : firstRefusal f s = some reason) : reason ≠ .noRoute := by
  rw [firstRefusal, hk, Option.map_eq_some_iff] at h
  obtain ⟨c, hc, rfl⟩ := h
  have hmem := List.mem_of_find?_eq_some hc
  have htrue := List.find?_some hc
  rintro hno
  simp only [admissionChecks, List.mem_cons, List.not_mem_nil, or_false] at hmem
  rcases hmem with rfl | rfl | rfl | rfl | rfl | rfl | rfl | rfl | rfl | rfl | rfl | rfl | rfl
  · simp at htrue
  all_goals cases hno

end

/-- Settles O19: without an entry the one refusal is NO_ROUTE; with one the model's checks refuse as the table's first does. -/
theorem requestRefused : Obligations.RequestRefused := by
  intro s w rest reason ha hc hl hr
  rw [exec_request ha hc hl]
  have hr' : firstRefusal w.frame (admitting s rest) = some reason := hr
  change Host.Outcome.next _ = Host.Outcome.next (addRecord _ (refusalCounted w.frame reason (admitting s rest)))
  cases hk : lookup (w.frame.labels.headD 0) (admitting s rest) with
  | none =>
    have hno : firstRefusal w.frame (admitting s rest) = some .noRoute := by
      rw [firstRefusal, hk]
      rfl
    obtain rfl : reason = .noRoute := Option.some.inj (hr'.symm.trans hno)
    simp only [judgeRequest, refusalCounted, hk]
    rfl
  | some k =>
    have hne := firstRefusal_ne_noRoute hk hr'
    obtain ⟨herror, hok⟩ := judgeEntry_eq hk
    cases hj : judgeEntry w.frame k (admitting s rest) with
    | error r =>
      obtain rfl : r = reason := Option.some.inj ((herror r hj).symm.trans hr')
      simp only [judgeRequest, refusalCounted, hk, hj, if_neg hne]
      rfl
    | ok d => simp [(hok d hj).1] at hr'

/-! ### An admitted request -/

section
variable {s : State} {f : InFrame} {k : RouteId}

/-- What a request that no check refuses has met of its body and of the pool (R28 to R34). -/
theorem body_of_firstRefusal_none (hk : lookup (f.labels.headD 0) s = some k) (h : firstRefusal f s = none) :
    f.body.length = 4 + fieldAt f.body 0 2 * wordBytes (s.route k).config.wordSize ∧
    cellsNeeded (wordBytes (s.route k).config.wordSize) (fieldAt f.body 0 2) (fieldAt f.body 2 2) ≤ s.freeCells := by
  have hall : ∀ c ∈ admissionChecks f (some k) s, ¬c.1 = true := by
    rw [firstRefusal, hk, Option.map_eq_none_iff, List.find?_eq_none] at h
    exact h
  simp only [admissionChecks, List.forall_mem_cons, decide_eq_true_eq, Option.getD_some] at hall
  obtain ⟨-, -, -, -, -, -, hbody, -, -, -, -, -, hcells, -⟩ := hall
  exact ⟨by simpa using hbody, by omega⟩

/-- A request that no check refuses is admitted into the lowest FREE slot with the counts of its body (R24, R37). -/
theorem judgeRequest_of_none {i : SlotId} (hk : lookup (f.labels.headD 0) s = some k) (h : firstRefusal f s = none)
    (hi : lowestFree s = some i) :
    judgeRequest f s = admitRequest f { route := k, writeCount := fieldAt f.body 0 2, readCount := fieldAt f.body 2 2, slot := i } s := by
  obtain ⟨herror, hok⟩ := judgeEntry_eq hk
  cases hj : judgeEntry f k s with
  | error r => simp [herror r hj] at h
  | ok d =>
    obtain ⟨-, hslot, hroute, hw, hr⟩ := hok d hj
    have hdemand : d = { route := k, writeCount := fieldAt f.body 0 2, readCount := fieldAt f.body 2 2, slot := i } := by
      cases d
      simp_all
    simp only [judgeRequest, hk, hj, hdemand]

end

/-- Settles O20: the reservation takes the cells that the pool's law has free, and every other field is one update of the admission. -/
theorem requestAdmitted : Obligations.RequestAdmitted := by
  intro s w rest k i hm hp ha hc hl hnone hk hi hlow f g need
  have hlowest : lowestFree (admitting s rest) = some i := lowestFree_of hi hlow
  obtain ⟨hbody, hneed⟩ := body_of_firstRefusal_none (s := s) hk hnone
  set d : Demand := { route := k, writeCount := fieldAt f.body 0 2, readCount := fieldAt f.body 2 2, slot := i } with hd
  have hexec : exec .request s = .next (admitRequest f d (admitting s rest)) := by
    rw [exec_request ha hc hl, judgeRequest_of_none (s := admitting s rest) hk hnone hlowest]
  set cells := pickCells need s.draws (freeCellList s) with hcells
  obtain ⟨hlen, hnodup, hmem⟩ := pickCells_spec need s.draws (freeCellList s) freeCellList_nodup
    (by rw [freeCellList_length hp]; exact hneed)
  set x := admittedSlot f d cells g with hx
  have hslots : (admitRequest f d (admitting s rest)).slots = s.slots.set i x := rfl
  have hmemory : (admitRequest f d (admitting s rest)).mem = storeBytes x.writeCells 0 (f.body.drop 4) s.mem := rfl
  have hself : (admitRequest f d (admitting s rest)).slot i = x := by
    rw [State.slot, hslots]
    simp
  have hwrite : x.writeCells.length = cellsFor (d.writeCount * x.wordBytes) := by
    have hle : x.writeCellCount ≤ x.cells.length := by
      change _ ≤ cells.length
      rw [hlen]
      exact Nat.le_add_right _ _
    rw [Slot.writeCells, List.length_take, Nat.min_eq_left hle]
    rfl
  have hbytes : (f.body.drop 4).length = d.writeCount * x.wordBytes := by
    rw [List.length_drop, hbody]
    change 4 + d.writeCount * x.wordBytes - 4 = _
    omega
  have hroom : need ≤ s.freeCells := hneed
  have hstore := loadBytes_storeBytes (cells := x.writeCells) (hnodup.sublist (List.take_sublist x.writeCellCount _)) (f.body.drop 4)
    (by rw [hbytes, hwrite]) hm
  refine ⟨_, hexec, ?_⟩
  rw [hself, hmemory]
  refine ⟨rfl, hlen, hnodup, fun c hc => mem_freeCellList.1 (hmem c hc), ?load, fun a ha => ?_, ?_, fun j hj => ?_, fun l => ?_, fun r => ?_, rfl⟩
  case load =>
    rw [show x.writeCount * x.wordBytes = (f.body.drop 4).length from hbytes.symm]
    exact hstore
  · exact readByte_storeBytes_outside (by rw [hbytes, hwrite]) hm fun h => ha (List.mem_of_mem_take h)
  · exact Nat.sub_add_cancel hroom
  · exact (State.setSlot_slot s i x j).trans (if_neg (Ne.symm hj))
  · refine (State.setQueue_queue s g.lane (s.queue g.lane ++ [i]) l).trans ?_
    by_cases h : l = g.lane
    · rw [if_pos h.symm, if_pos h, h]
    · rw [if_neg (Ne.symm h), if_neg h]
  · refine (State.setRoute_route s k { s.route k with inUse := (s.route k).inUse + 1 } r).trans ?_
    by_cases h : r = k
    · rw [if_pos h.symm, if_pos h, h]
    · rw [if_neg (Ne.symm h), if_neg h]

/-! ### Cancellation -/

section
variable {s : State} {i : SlotId}

theorem judgeCancel_of_queued {f : InFrame} (hb : f.body = []) (hp : findPair f.source f.sequence s = some i) (hs : (s.slot i).state = .queued) :
    judgeCancel f s = withdrawSlot i s := by
  simp [judgeCancel, hb, hp, hs]

end

/-- Settles O21: the withdrawn slot is no orphan, so the decision of CANCELLED makes it DONE. -/
theorem cancelWithdraws : Obligations.CancelWithdraws := by
  intro s w rest i ha hc hl hb hp hs ho
  rw [exec_cancel ha hc hl, judgeCancel_of_queued (s := admitting s rest) hb hp hs, withdrawSlot]
  set u := ((admitting s rest).setSlot i { s.slot i with responseWanted := true }).setQueue (s.slot i).lane
    ((s.queue (s.slot i).lane).erase i) with hu
  have hslot : u.slot i = { s.slot i with responseWanted := true } := by simp [hu]
  have hkept : freedAtOnce (u.slot i) .cancelled = false := by
    rw [hslot]
    simp [freedAtOnce, ho]
  change Host.Outcome.next (judgeFlow (decideOutcome i .cancelled u)) = _
  rw [decideOutcome_of_done _ hkept, hslot]
  have hslots : ∀ x, u.slots.set i x = s.slots.set i x := fun x => by
    simp [hu, State.setSlot, State.setQueue, admitting]
  have hroute : u.slotRoute i = s.slotRoute i := by
    rw [State.slotRoute, hslot]
    rfl
  have hcounters : (countOutcome i .cancelled u).counters = (bumpSet (s.slotRoute i).counterSet .doneFail 1 s).counters := by
    rw [countOutcome_of_failure i u (by decide), hroute]
    rfl
  rw [hslots, hcounters]
  rfl

/-- Settles O22: the three answers in their order, and the frame that was waiting when the link went down. -/
theorem cancelAnswered : Obligations.CancelAnswered := by
  intro s w rest ha s1 ack
  refine ⟨fun hl => ?_, fun hl hc => ⟨fun hb => ?_, fun hb hnone => ?_, fun i hb hp hs => ?_⟩⟩
  · rw [exec_admitNext ha]
    simp [admitNext, ha, judgeWaiting, hl, s1]
  all_goals rw [exec_cancel ha hc hl]
  · simp only [judgeCancel, ne_eq, List.length_eq_zero_iff, hb, not_false_eq_true, if_true]
    rfl
  · have hpair : findPair w.frame.source w.frame.sequence (admitting s rest) = none := by
      rw [← Option.not_isSome_iff_eq_none, findPair_isSome_iff]
      rintro ⟨i, hi, hsrc, hseq⟩
      rcases hnone i with h | h | h
      · exact hi h
      · exact h hsrc
      · exact h hseq
    simp only [judgeCancel, hb, List.length_nil, ne_eq, not_true_eq_false, if_false, hpair]
    rfl
  · have hpair : findPair w.frame.source w.frame.sequence (admitting s rest) = some i := hp
    have hnot : ((admitting s rest).slot i).state ≠ .queued := by
      change (s.slot i).state ≠ .queued
      rcases hs with h | h <;> simp [h]
    simp only [judgeCancel, hb, List.length_nil, ne_eq, not_true_eq_false, if_false, hpair, hnot]
    rfl

end Sys2Proof.Machine

/-!
PROOFS. The trunk output: which requester a grant serves, and what the end of its frame completes: O32, O33.
-/
namespace Sys2Proof.Machine

open Sys2Proof.Safety

/-! ### The grant -/

section
variable {s : State}

/-- With the output free a grant serves the chosen requester, or none (R118). -/
theorem exec_outputGrant (hl : s.receiver.link = .up) (ho : s.trans.output = none) (hr : s.resetLine = false) :
    (∀ c, chooseRequester s = some c → exec .outputGrant s = .next (grant c s)) ∧
    (chooseRequester s = none → exec .outputGrant s = .next s) := by
  have hfree : outputFree s = true := by simp [outputFree, hl, ho, hr]
  refine ⟨fun c hc => ?_, fun hc => ?_⟩
  · simp only [exec, execOutputGrant, hfree, if_true, hc]
  · simp only [exec, execOutputGrant, hfree, if_true, hc]

/-- Only where no hold request, no response and no event waits is a queue chosen (R118). -/
theorem chooseRequester_of_queues (hh : s.flow.pendingHold = none) (hb : s.agent.buffer = none) (he : s.events.request = false) :
    chooseRequester s = chooseQueue s := by
  simp [chooseRequester, hh, hb, he]

/-- The short-response queue is served when it alone waits, or when the mark names the other (R119). -/
theorem chooseQueue_short {r : ShortRecord} {rs : List ShortRecord} (hi : s.trans.inboundHold = 0) (hq : s.trans.shortQueue = r :: rs)
    (h : s.completion = [] ∨ s.trans.lastServed = .completion) : chooseQueue s = some .short := by
  rw [chooseQueue, if_neg (not_not_intro hi), hq]
  cases hc : s.completion with
  | nil => rfl
  | cons i is => rw [h.resolve_left (by simp [hc])]

theorem chooseQueue_completion {i : SlotId} {is : List SlotId} (hi : s.trans.inboundHold = 0) (hc : s.completion = i :: is)
    (h : s.trans.shortQueue = [] ∨ s.trans.lastServed = .short) : chooseQueue s = some .completion := by
  rw [chooseQueue, if_neg (not_not_intro hi), hc]
  cases hq : s.trans.shortQueue with
  | nil => rfl
  | cons r rs => rw [h.resolve_left (by simp [hq])]

/-- No queue is served while the inbound hold timer runs, or where neither waits (R104). -/
theorem chooseQueue_none (h : s.trans.inboundHold ≠ 0 ∨ (s.trans.shortQueue = [] ∧ s.completion = [])) : chooseQueue s = none := by
  unfold chooseQueue
  rcases h with h | ⟨hq, hc⟩
  · exact if_pos h
  · rw [hq, hc]
    exact ite_self none

end

/-- The EVENT frame written out with its count of drained entries before them (R116, R164). -/
theorem eventFrame_eq (n : BitVec 8) (d : Destination) (e : EventUnit) : eventFrame n d e =
    buildFrame 11 d.source 0 d.stack ([n] ++ beBytes 2 e.setMembers.toNat ++ [e.contentionSet, e.timeoutSet]
      ++ [BitVec.ofNat 8 e.drained.length] ++ e.drained.map fun r => BitVec.ofNat 8 r.val) := by
  simp [eventFrame, kindEvent]

/-- Settles O32, requester by requester in the arbiter's order. -/
theorem outputGrant : Obligations.OutputGrant := by
  intro s hl ho hr begins noneFirst
  obtain ⟨hgrant, hidle⟩ := exec_outputGrant hl ho hr
  refine ⟨fun h hh => ?hold, fun r hh hb => ?mgmt, fun d hh hb he hd n hn => ?event, fun r rs hnone hi hq h => ?short,
    fun i is hnone hi hc h => ?completion, fun hnone h => ?idle⟩
  case hold =>
    rw [hgrant .hold (by simp [chooseRequester, hh])]
    simp only [grant, hh]
    rfl
  case mgmt =>
    rw [hgrant .mgmt (by simp [chooseRequester, hh, hb])]
    simp only [grant, hb]
    rfl
  case event =>
    rw [hgrant .event (by simp [chooseRequester, hh, hb, he, hd])]
    have hnumber : (if s.events.state = .outstanding then s.events.outstanding.getD 0 else s.events.nextNumber) = n := by
      split
      · next hs => rw [if_pos hs] at hn; rw [hn]; rfl
      · next hs => rwa [if_neg hs] at hn
    have hserve : grant .event s = grantEvent d s := by simp only [grant, hd]
    simp only [hserve, grantEvent, hnumber, eventFrame_eq]
    rfl
  all_goals obtain ⟨hh, hb, he⟩ := hnone
  case short =>
    rw [hgrant .short ((chooseRequester_of_queues hh hb he).trans (chooseQueue_short hi hq h))]
    simp only [grant, beginSending, begins, hq]
  case completion =>
    rw [hgrant .completion ((chooseRequester_of_queues hh hb he).trans (chooseQueue_completion hi hc h))]
    simp only [grant, hc]
    rfl
  case idle => exact hidle ((chooseRequester_of_queues hh hb he).trans (chooseQueue_none h))

/-! ### The end of a frame -/

/-- Settles O33, requester by requester. -/
theorem frameEnd : Obligations.FrameEnd := by
  intro s f ho hr ended
  have hexec : exec .frameEnd s = .next (completeRequester f.requester
      (bumpDevice .framesSent 1 { s with trans := { s.trans with output := none, lastMark := .stop } })) := by
    simp [exec, execFrameEnd, ho, hr]
  refine ⟨fun h => ?hold, fun h => ?mgmt, fun n h => ?event, fun h => ?record, fun i h => ?slot⟩
  all_goals rw [hexec, h]
  case hold => rfl
  case mgmt => rfl
  case event =>
    have hcomplete : ∀ u : State, completeRequester (.event n) u =
        if u.events.state = .outstanding ∧ u.events.outstanding = some n then
          { bumpDevice .eventsSent 1 u with events := u.events.startRepeat }
        else bumpDevice .eventsSent 1 u := fun _ => rfl
    rw [hcomplete]
    by_cases hs : s.events.state = .outstanding ∧ s.events.outstanding = some n
    · simp only [if_pos hs]
      rw [if_pos (by exact hs)]
      rfl
    · simp only [if_neg hs]
      rw [if_neg (by exact hs)]
      rfl
  case record => rfl
  case slot => rfl

end Sys2Proof.Machine

/-!
PROOFS. SET_LANE and RESET_LANE: the settings of a lane, its enabling, and the flush of its slots: O42, O43.
-/
namespace Sys2Proof.Machine

open Sys2Proof.Safety

section
variable (s : State) (a : Agent)

/-! ### The operations on a lane do not look at the agent -/

theorem judgeFlow_withAgent : judgeFlow (withAgent s a) = withAgent (judgeFlow s) a := rfl

theorem decideOutcome_withAgent (i : SlotId) (o : TxOutcome) : decideOutcome i o (withAgent s a) = withAgent (decideOutcome i o s) a := by
  cases h : freedAtOnce (s.slot i) o
  · rw [decideOutcome_of_done s h, decideOutcome_of_done (withAgent s a) h]
    rfl
  · rw [decideOutcome_of_freed s h, decideOutcome_of_freed (withAgent s a) h]
    rfl

theorem foldl_decideOutcome_withAgent (o : TxOutcome) (is : List SlotId) :
    is.foldl (fun t i => decideOutcome i o t) (withAgent s a) = withAgent (is.foldl (fun t i => decideOutcome i o t) s) a := by
  induction is generalizing s with
  | nil => rfl
  | cons i is ih => rw [List.foldl_cons, List.foldl_cons, decideOutcome_withAgent, ih]

theorem retryOrDecide_withAgent (l : LaneId) (i : SlotId) (o : TxOutcome) :
    retryOrDecide l i o (withAgent s a) = withAgent (retryOrDecide l i o s) a := by
  unfold retryOrDecide
  dsimp only
  rw [decideOutcome_withAgent, judgeFlow_withAgent, apply_ite (withAgent · a)]
  rfl

theorem contentionAbort_withAgent (l : LaneId) : contentionAbort l (withAgent s a) = withAgent (contentionAbort l s) a := by
  cases h : (s.lane l).current with
  | none => rw [contentionAbort_of_none s h, contentionAbort_of_none (withAgent s a) h]
  | some i =>
    rw [contentionAbort_of_current s h, contentionAbort_of_current (withAgent s a) h, ← retryOrDecide_withAgent]
    rfl

theorem claimActs_withAgent (l : LaneId) : claimActs l (withAgent s a) = withAgent (claimActs l s) a := by
  unfold claimActs
  rw [withAgent_lane, contentionAbort_withAgent]
  cases (s.lane l).state <;> rfl

theorem strayIfShifting_withAgent (l : LaneId) : strayIfShifting l (withAgent s a) = withAgent (strayIfShifting l s) a := by
  unfold strayIfShifting
  rw [withAgent_lane]
  cases (s.lane l).state <;> cases (s.lane l).current <;> rfl

theorem stopAndFlush_withAgent (l : LaneId) (o : TxOutcome) (e : LaneEngine) :
    stopAndFlush l o e (withAgent s a) = withAgent (stopAndFlush l o e s) a := by
  unfold stopAndFlush flushLane
  rw [strayIfShifting_withAgent, ← judgeFlow_withAgent, ← foldl_decideOutcome_withAgent]
  rfl

theorem enableLane_withAgent (l : LaneId) (watch : Bool) (gap : Nat) :
    enableLane l watch gap (withAgent s a) = withAgent (enableLane l watch gap s) a := by
  unfold enableLane
  dsimp only
  rw [withAgent_lane, strayIfShifting_withAgent, apply_ite (withAgent · a), apply_ite (withAgent · a), apply_ite (withAgent · a),
    ← claimActs_withAgent]
  rfl

theorem disableLane_withAgent (l : LaneId) (watch : Bool) (gap : Nat) :
    disableLane l watch gap (withAgent s a) = withAgent (disableLane l watch gap s) a := by
  unfold disableLane
  dsimp only
  rw [withAgent_lane, stopAndFlush_withAgent, apply_ite (withAgent · a)]
  rfl

theorem resetLaneEngine_withAgent (l : LaneId) : resetLaneEngine l (withAgent s a) = withAgent (resetLaneEngine l s) a := by
  unfold resetLaneEngine
  rw [withAgent_lane, stopAndFlush_withAgent, apply_ite (withAgent · a)]

end

section
variable {s : State} {q : MgmtRequest} {rest : List MgmtRequest} {lease : Nat} {n en watch gap : Byte} {l : LaneId}

/-! ### SET_LANE and RESET_LANE on their operands -/

theorem runSetLane_badIndex (src : Source) (hn : 8 ≤ n.toNat) : runSetLane src [n, en, watch, gap] s = failWith .badIndex s := by
  unfold runSetLane
  rw [show byteAt [n, en, watch, gap] 0 = n.toNat from rfl, laneOf_none hn]

theorem runSetLane_badValue (src : Source) (hn : n.toNat < 8) (hb : 1 < en.toNat ∨ 1 < watch.toNat) :
    runSetLane src [n, en, watch, gap] s = failWith .badValue s := by
  unfold runSetLane
  rw [show byteAt [n, en, watch, gap] 0 = n.toNat from rfl, show byteAt [n, en, watch, gap] 1 = en.toNat from rfl,
    show byteAt [n, en, watch, gap] 2 = watch.toNat from rfl, laneOf_eq (l := ⟨n.toNat, hn⟩) rfl]
  rcases hb with hb | hb
  · rw [boolOf_none hb]
  · rw [boolOf_none hb]
    cases boolOf en.toNat <;> rfl

theorem runSetLane_done (src : Source) (hl : l.val = n.toNat) (he : en = 0 ∨ en = 1) (hw : watch = 0 ∨ watch = 1) :
    runSetLane src [n, en, watch, gap] s =
      let u := if en = 1 then enableLane l (decide (watch = 1)) gap.toNat s else disableLane l (decide (watch = 1)) gap.toNat s
      doneWith (laneReply u l) u := by
  unfold runSetLane
  rw [show byteAt [n, en, watch, gap] 0 = n.toNat from rfl, show byteAt [n, en, watch, gap] 1 = en.toNat from rfl,
    show byteAt [n, en, watch, gap] 2 = watch.toNat from rfl, laneOf_eq hl, boolOf_eq he, boolOf_eq hw]
  simp only [decide_eq_true_eq]
  rfl

theorem runResetLane_done (src : Source) (hl : l.val = n.toNat) :
    runResetLane src [n] s = doneWith (laneReply (resetLaneEngine l s) l) (resetLaneEngine l s) := by
  unfold runResetLane
  rw [byteAt_nat, laneOf_eq hl]

/-- An operation of the holder on a lane that does not look at the agent is DONE with the lane's reply and restarts the lease (R131, R141). -/
theorem serve_onLane {op : Operation} {operands : List Byte} {f : State → State} (ht : Taking s q rest) (hh : Holds s q lease)
    (hc : Carries q op.code operands) (hlt : op.code < 256) (hlen : operands.length = op.length) (hn : op.needsLock operands = true)
    (hf : ∀ t a, f (withAgent t a) = withAgent (f t) a)
    (hr : op.run q.source operands (taken s rest) = doneWith (laneReply (f (taken s rest)) l) (f (taken s rest))) :
    serve op s = withAgent (f s) (renewed s q rest lease (laneReply (f s) l)) := by
  have htaken : f (taken s rest) = withAgent (f s) (taken s rest).agent := hf s _
  rw [htaken] at hr
  have hserve := serve_of_holder_done ht hc hlt hlen hn hh hr rfl
  exact hserve

theorem exec_setLane_enable (ht : Taking s q rest) (hh : Holds s q lease) (hc : Carries q 12 [n, 1, watch, gap]) (hl : l.val = n.toNat)
    (hw : watch = 0 ∨ watch = 1) :
    exec .setLane s = .next (withAgent (enableLane l (decide (watch = 1)) gap.toNat s)
      (renewed s q rest lease (laneReply (enableLane l (decide (watch = 1)) gap.toNat s) l))) :=
  congrArg _ (serve_onLane (op := opSetLane) ht hh hc (by decide) rfl rfl (enableLane_withAgent · · l _ _)
    (runSetLane_done q.source hl (.inr rfl) hw))

theorem exec_setLane_disable (ht : Taking s q rest) (hh : Holds s q lease) (hc : Carries q 12 [n, 0, watch, gap]) (hl : l.val = n.toNat)
    (hw : watch = 0 ∨ watch = 1) :
    exec .setLane s = .next (withAgent (disableLane l (decide (watch = 1)) gap.toNat s)
      (renewed s q rest lease (laneReply (disableLane l (decide (watch = 1)) gap.toNat s) l))) :=
  congrArg _ (serve_onLane (op := opSetLane) ht hh hc (by decide) rfl rfl (disableLane_withAgent · · l _ _)
    (runSetLane_done q.source hl (.inl rfl) hw))

theorem exec_resetLane_done (ht : Taking s q rest) (hh : Holds s q lease) (hc : Carries q 13 [n]) (hl : l.val = n.toNat) :
    exec .resetLane s = .next (withAgent (resetLaneEngine l s) (renewed s q rest lease (laneReply (resetLaneEngine l s) l))) :=
  congrArg _ (serve_onLane (op := opResetLane) ht hh hc (by decide) rfl rfl (resetLaneEngine_withAgent · · l)
    (runResetLane_done q.source hl))

/-! ### SET_LANE with enabled yes -/

theorem claimActs_of_idle (h : (s.lane l).state = .idle) : claimActs l s = s.setLane l { s.lane l with state := .yielded } := by
  simp only [claimActs, h]

theorem claimActs_of_gap (h : (s.lane l).state = .gap) :
    claimActs l s = s.setLane l { s.lane l with state := .yielded, gapTimer := none } := by
  simp only [claimActs, h]

section
variable {w : Bool} {g : Nat}

/-- A claim acts on a lane once its new settings stand; an attempt that shifts leaves what it had captured (R78, R86, log 2). -/
theorem enableLane_of_claim (he : (s.lane l).enabled = true) (hw : (s.lane l).claimWatch = false) (hc : (s.lane l).claimIn = true) :
    enableLane l true g s =
      claimActs l ((strayIfShifting l s).setLane l { s.lane l with enabled := true, claimWatch := true, gap := g }) := by
  simp [enableLane, he, hw, hc]

theorem enableLane_of_disabled (he : (s.lane l).enabled = false) :
    enableLane l w g s = s.setLane l { s.lane l with enabled := true, claimWatch := w, gap := g }.enterIdle := by
  simp [enableLane, he]

theorem enableLane_of_unwatch (he : (s.lane l).enabled = true) (hw : (s.lane l).claimWatch = true) (hy : (s.lane l).state = .yielded) :
    enableLane l false g s = s.setLane l { s.lane l with enabled := true, claimWatch := false, gap := g, state := .idle } := by
  simp [enableLane, he, hw, hy, LaneEngine.enterIdle, LaneEngine.claimed]

theorem enableLane_of_settings (he : (s.lane l).enabled = true) (h : (s.lane l).claimWatch = w ∨
    (s.lane l).claimWatch = true ∧ (s.lane l).state ≠ .yielded ∨ (s.lane l).claimWatch = false ∧ (s.lane l).claimIn = false) :
    enableLane l w g s = s.setLane l { s.lane l with enabled := true, claimWatch := w, gap := g } := by
  rcases h with hw | ⟨hw, hy⟩ | ⟨hw, hc⟩
  · cases w <;> simp [enableLane, he, hw]
  · simp [enableLane, he, hw, hy]
  · simp [enableLane, he, hw, hc]

end

/-- Settles O42: the operands first, then the lane's settings and its state decide which of its four changes it takes. -/
theorem setLaneEnable : Obligations.SetLaneEnable := by
  intro s q rest lease n en watch gap ht hh hc
  refine ⟨fun hn => ?badIndex, fun hn hb => ?badValue, fun l hl hen hw => ?enabled⟩
  case badIndex =>
    exact congrArg _ (serve_of_holder_refused (op := opSetLane) ht hc (by decide) rfl rfl hh.1 (runSetLane_badIndex q.source hn) (by decide))
  case badValue =>
    exact congrArg _ (serve_of_holder_refused (op := opSetLane) ht hc (by decide) rfl rfl hh.1 (runSetLane_badValue q.source hn hb) (by decide))
  case enabled =>
    subst hen
    intro e stored done
    have hexec : ∀ {u : State}, enableLane l (decide (watch = 1)) gap.toNat s = u → exec .setLane s = done u := by
      rintro u rfl
      exact exec_setLane_enable ht hh hc hl hw
    refine ⟨fun he => hexec ?off, fun he hw' h0 hy => hexec ?unwatch, fun he hw' h1 hci => ?claim, fun he h => hexec ?settings⟩
    case off =>
      rw [enableLane_of_disabled he]
      simp only [LaneEngine.enterIdle, LaneEngine.claimed, Bool.and_eq_true, decide_eq_true_eq]
      rfl
    case unwatch =>
      subst h0
      exact enableLane_of_unwatch he hw' hy
    case settings => exact enableLane_of_settings he h
    case claim =>
      subst h1
      have hclaim := enableLane_of_claim (g := gap.toNat) he hw' hci
      have hself : ∀ t : State, (t.setLane l e).lane l = e := fun t => by simp
      have hstill : (s.lane l).state ≠ .shifting → enableLane l true gap.toNat s = claimActs l (s.setLane l e) := fun h => by
        rw [hclaim, strayIfShifting_of_not_shifting h]
        rfl
      refine ⟨fun hs => hexec ?idle, fun hs => hexec ?gap, fun hs => hexec ?wait, fun i hs hi => hexec ?shift⟩
      case idle =>
        refine (hstill (by simp [hs])).trans ((claimActs_of_idle ?_).trans ?_)
        · rw [hself]; exact hs
        · rw [hself]; exact setLane_setLane s l _ _
      case gap =>
        refine (hstill (by simp [hs])).trans ((claimActs_of_gap ?_).trans ?_)
        · rw [hself]; exact hs
        · rw [hself]; exact setLane_setLane s l _ _
      case wait =>
        refine (hstill (by simp [hs])).trans (claimActs_of_attempt (.inl ?_))
        rw [hself]; exact hs
      case shift =>
        have hstray := strayIfShifting_eq s l
        rw [strayIfShifting_of_shifting hs hi] at hstray
        have hattempt : ((strayCaptures i s).setLane l e).lane l = e := hself _
        rw [strayIfShifting_of_shifting hs hi] at hclaim
        refine hclaim.trans ((claimActs_of_attempt (.inr ?_)).trans (congrArg (contentionAbort l ·) ?_))
        · exact (congrArg LaneEngine.state hattempt).trans hs
        · exact congrArg (State.setLane · l e) hstray

end
end Sys2Proof.Machine

/-!
PROOFS. The flush of a lane: what becomes of its slots, in their order, and of the cells, the entries and the counters: O43.
-/
namespace Sys2Proof.Machine

open Sys2Proof.Safety

/-! ### Outcomes of a flush, one slot -/

/-- A flush decides an outcome that is no success and no loss of the link: a slot it meets is freed exactly when it is an orphan (R52, R53). -/
abbrev Stops (o : TxOutcome) : Prop := o ≠ .ok ∧ o ≠ .linkLost

/-- A slot whose transaction a flush stopped (R52, R61). -/
def Slot.stopped (x : Slot) (o : TxOutcome) : Slot := if x.orphan then Slot.freed else { x with state := .done, outcome := some o }

section
variable (s : State) {o : TxOutcome} (i : SlotId)

theorem freedAtOnce_of_stops (ho : Stops o) (x : Slot) : freedAtOnce x o = x.orphan := by
  obtain ⟨hok, hlost⟩ := ho
  simp [freedAtOnce, beq_eq_false_iff_ne.2 hok, beq_eq_false_iff_ne.2 hlost]

theorem decideOutcome_slot_of_stops (ho : Stops o) (j : SlotId) :
    (decideOutcome i o s).slot j = if i = j then (s.slot j).stopped o else s.slot j := by
  have hf := freedAtOnce_of_stops ho (s.slot i)
  cases horphan : (s.slot i).orphan <;> rw [horphan] at hf
  · rw [decideOutcome_of_done s hf]
    refine (State.setSlot_slot ..).trans ?_
    by_cases e : i = j
    · subst e; simp [Slot.stopped, horphan]
    · simp [e]
  · rw [decideOutcome_of_freed s hf, freeSlots_slot]
    by_cases e : i = j
    · subst e; simp [Slot.stopped, horphan]
    · simp only [List.mem_singleton, if_neg e, if_neg (Ne.symm e)]; rfl

theorem decideOutcome_slot_of_mem (ho : Stops o) {is : List SlotId} (hi : i ∉ is) {j : SlotId} (hj : j ∈ is) :
    (decideOutcome i o s).slot j = s.slot j := by
  rw [decideOutcome_slot_of_stops s i ho]
  exact if_neg fun e : i = j => hi (e ▸ hj)

theorem decideOutcome_completion_of_stops (ho : Stops o) :
    (decideOutcome i o s).completion = s.completion ++ [i].filter fun j => !(s.slot j).orphan := by
  have hf := freedAtOnce_of_stops ho (s.slot i)
  cases horphan : (s.slot i).orphan <;> rw [horphan] at hf
  · rw [decideOutcome_of_done s hf]; simp [horphan]
  · rw [decideOutcome_of_freed s hf, freeSlots_completion]; simp [horphan, countOutcome]

theorem decideOutcome_route_config (r : RouteId) : ((decideOutcome i o s).route r).config = (s.route r).config := by
  cases hf : freedAtOnce (s.slot i) o
  · rw [decideOutcome_of_done s hf]; rfl
  · rw [decideOutcome_of_freed s hf, freeSlots_route_config]; rfl

end

/-! ### Outcomes of a flush, slot after slot -/

section
variable {s t : State} {o : TxOutcome} {is : List SlotId}

theorem foldl_decideOutcome_slot (ho : Stops o) (hn : is.Nodup) (j : SlotId) :
    (is.foldl (fun t i => decideOutcome i o t) s).slot j = if j ∈ is then (s.slot j).stopped o else s.slot j := by
  induction is generalizing s with
  | nil => simp
  | cons i is ih =>
    obtain ⟨hi, hn⟩ := List.nodup_cons.1 hn
    rw [List.foldl_cons, ih hn, decideOutcome_slot_of_stops s i ho]
    by_cases e : i = j
    · subst e; simp [hi]
    · simp [e, Ne.symm e]

theorem foldl_decideOutcome_completion (ho : Stops o) (hn : is.Nodup) :
    (is.foldl (fun t i => decideOutcome i o t) s).completion = s.completion ++ is.filter fun j => !(s.slot j).orphan := by
  induction is generalizing s with
  | nil => simp
  | cons i is ih =>
    obtain ⟨hi, hn⟩ := List.nodup_cons.1 hn
    have hrest : (is.filter fun j => !((decideOutcome i o s).slot j).orphan) = is.filter fun j => !(s.slot j).orphan :=
      List.filter_congr fun j hj => by rw [decideOutcome_slot_of_mem s i ho hi hj]
    rw [List.foldl_cons, ih hn, hrest, decideOutcome_completion_of_stops s i ho, List.append_assoc, ← List.filter_append]
    rfl

/-- The counting of outcomes looks at the bank, the slots and the configurations alone. -/
theorem foldl_countOutcome_counters_congr (hc : s.counters = t.counters)
    (h : ∀ i ∈ is, s.slotRoute i = t.slotRoute i ∧ s.slot i = t.slot i) :
    (is.foldl (fun t i => countOutcome i o t) s).counters = (is.foldl (fun t i => countOutcome i o t) t).counters := by
  induction is generalizing s t with
  | nil => exact hc
  | cons i is ih =>
    obtain ⟨⟨hroute, hslot⟩, h⟩ := List.forall_mem_cons.1 h
    exact ih (by simp only [countOutcome, hc, hroute, hslot]) h

/-- The outcomes of a flush are counted as if they were decided together (R54). -/
theorem foldl_decideOutcome_counters (ho : Stops o) (hn : is.Nodup) :
    (is.foldl (fun t i => decideOutcome i o t) s).counters = (is.foldl (fun t i => countOutcome i o t) s).counters := by
  induction is generalizing s with
  | nil => rfl
  | cons i is ih =>
    obtain ⟨hi, hn⟩ := List.nodup_cons.1 hn
    rw [List.foldl_cons, List.foldl_cons, ih hn]
    refine foldl_countOutcome_counters_congr (decideOutcome_counters i s o) fun j hj => ?_
    have hslot := decideOutcome_slot_of_mem s i ho hi hj
    refine ⟨?_, hslot⟩
    rw [State.slotRoute, hslot, decideOutcome_route_config]
    rfl

/-- A state gives back what another one does: free cells, entries and Event Unit (R58, R59). -/
abbrev SameReturns (s t : State) : Prop := s.freeCells = t.freeCells ∧ s.routes = t.routes ∧ s.events = t.events

theorem freeSlots_nil_returns (s : State) : SameReturns (freeSlots [] s) s := by
  refine ⟨by simp, Vector.ext fun r hr => ?_, ?_⟩
  · have hroute := freeSlots_route [] s ⟨r, hr⟩
    rw [show namedBy [] s ⟨r, hr⟩ = 0 from rfl] at hroute
    refine hroute.trans ?_
    simp [RouteEntry.release, RouteEntry.drains, State.route]
  · rw [freeSlots_events, drainedBy_nil]
    rfl

/-- Freeing looks at the tables, the Event Unit and the link alone. -/
theorem freeSlots_returns_congr (is : List SlotId) (hs : s.slots = t.slots) (hr : SameReturns s t) (hl : s.receiver = t.receiver) :
    SameReturns (freeSlots is s) (freeSlots is t) := by
  obtain ⟨hc, hroutes, he⟩ := hr
  simp only [SameReturns, freeSlots, drainedBy, namedBy, State.slot, State.route, hs, hc, hroutes, he, hl, and_self]

theorem foldl_decideOutcome_returns_of_kept (ho : Stops o) (hn : is.Nodup) (h : ∀ i ∈ is, (s.slot i).orphan = false) :
    SameReturns (is.foldl (fun t i => decideOutcome i o t) s) s := by
  induction is generalizing s with
  | nil => exact ⟨rfl, rfl, rfl⟩
  | cons i is ih =>
    obtain ⟨hi, hn⟩ := List.nodup_cons.1 hn
    obtain ⟨horphan, h⟩ := List.forall_mem_cons.1 h
    have hdone := decideOutcome_of_done s ((freedAtOnce_of_stops ho (s.slot i)).trans horphan)
    obtain ⟨hc, hr, he⟩ := ih (s := decideOutcome i o s) hn fun j hj => by
      rw [decideOutcome_slot_of_mem s i ho hi hj]; exact h j hj
    rw [List.foldl_cons]
    exact ⟨hc.trans (by rw [hdone]), hr.trans (by rw [hdone]), he.trans (by rw [hdone])⟩

/-- Of the slots of a lane the current one alone can be an orphan: what a flush gives back is what the freeing of the orphans does. -/
theorem foldl_decideOutcome_returns (ho : Stops o) {c : Option SlotId} (hn : (c.toList ++ is).Nodup)
    (h : ∀ i ∈ is, (s.slot i).orphan = false) :
    SameReturns ((c.toList ++ is).foldl (fun t i => decideOutcome i o t) s)
      (freeSlots ((c.toList ++ is).filter fun i => (s.slot i).orphan) s) := by
  have hnone : (is.filter fun i => (s.slot i).orphan) = [] := List.filter_eq_nil_iff.2 fun i hi => by simp [h i hi]
  have hkept : ∀ {js : List SlotId}, js.Nodup → (∀ i ∈ js, (s.slot i).orphan = false) →
      SameReturns (js.foldl (fun t i => decideOutcome i o t) s) (freeSlots (js.filter fun i => (s.slot i).orphan) s) := by
    intro js hjs hall
    rw [List.filter_eq_nil_iff.2 fun i hi => by simp [hall i hi]]
    obtain ⟨hc, hr, he⟩ := foldl_decideOutcome_returns_of_kept ho hjs hall
    obtain ⟨hc', hr', he'⟩ := freeSlots_nil_returns s
    exact ⟨hc.trans hc'.symm, hr.trans hr'.symm, he.trans he'.symm⟩
  cases c with
  | none => exact hkept hn h
  | some i =>
    obtain ⟨hi, hn'⟩ := List.nodup_cons.1 hn
    cases horphan : (s.slot i).orphan
    · exact hkept hn (List.forall_mem_cons.2 ⟨horphan, h⟩)
    · have hfreed := decideOutcome_of_freed s ((freedAtOnce_of_stops ho (s.slot i)).trans horphan)
      obtain ⟨hc, hr, he⟩ := foldl_decideOutcome_returns_of_kept (s := decideOutcome i o s) ho hn' fun j hj => by
        rw [decideOutcome_slot_of_mem s i ho hi hj]; exact h j hj
      obtain ⟨gc, gr, ge⟩ := freeSlots_returns_congr (s := countOutcome i o s) (t := s) [i] rfl ⟨rfl, rfl, rfl⟩ rfl
      rw [Option.toList_some, List.singleton_append, List.filter_cons, if_pos horphan, hnone, List.foldl_cons]
      exact ⟨hc.trans ((congrArg State.freeCells hfreed).trans gc), hr.trans ((congrArg State.routes hfreed).trans gr),
        he.trans ((congrArg State.events hfreed).trans ge)⟩

end

/-! ### The flush of a lane -/

section
variable (s : State) (l : LaneId)

/-- The slots of a lane, the current one first (R52). -/
def laneMembers : List SlotId := (s.lane l).current.toList ++ s.queue l

/-- What a flush finds: the attempt stopped, the engine as the stop leaves it, the queue empty (R52). -/
def quieted (e : LaneEngine) : State := ((strayIfShifting l s).setLane l e).setQueue l []

theorem stopAndFlush_foldl (o : TxOutcome) (e : LaneEngine) :
    stopAndFlush l o e s = judgeFlow ((laneMembers s l).foldl (fun t i => decideOutcome i o t) (quieted s l e)) := by
  have hlane : (strayIfShifting l s).lane l = s.lane l := lane_of_lanes (strayIfShifting_lanes s l) l
  have hqueue : (strayIfShifting l s).queue l = s.queue l := by simp only [State.queue, strayIfShifting_queues]
  unfold stopAndFlush flushLane
  dsimp only
  rw [hlane, hqueue]
  rfl

variable (e : LaneEngine)

theorem quieted_eq : quieted s l e =
    { s with
      lanes := s.lanes.set l e, queues := s.queues.set l []
      mem := (strayIfShifting l s).mem, draws := (strayIfShifting l s).draws } := by
  unfold quieted
  rw [strayIfShifting_eq]
  rfl

theorem quieted_slot (i : SlotId) : (quieted s l e).slot i = s.slot i := by rw [quieted_eq]; rfl
theorem quieted_slotRoute (i : SlotId) : (quieted s l e).slotRoute i = s.slotRoute i := by rw [quieted_eq]; rfl
theorem quieted_completion : (quieted s l e).completion = s.completion := by rw [quieted_eq]
theorem quieted_setCount (k : SetId) (c : SetCounter) : (quieted s l e).setCount k c = s.setCount k c := by rw [quieted_eq]; rfl
theorem quieted_deviceCount (c : DeviceCounter) : (quieted s l e).deviceCount c = s.deviceCount c := by rw [quieted_eq]; rfl

variable {s l e}

theorem laneMembers_nodup (h : SlotLaw s) : (laneMembers s l).Nodup := by
  obtain ⟨-, hn, hqueue, hcurrent, -⟩ := h
  have hone : (s.lane l).current.toList.Nodup := by cases (s.lane l).current <;> simp
  refine hone.append (hn l) fun i hi hq => ?_
  have hactive := ((hcurrent l i).1 (Option.mem_toList.1 hi)).1
  exact absurd (hactive.symm.trans ((hqueue l i).1 hq).1) (by decide)

/-- A QUEUED slot is no orphan (R61). -/
theorem orphan_of_mem_queue (h : SlotLaw s) {i : SlotId} (hi : i ∈ s.queue l) : (s.slot i).orphan = false := by
  obtain ⟨-, -, hqueue, -, -, -, -, horphan⟩ := h
  refine Bool.eq_false_iff.2 fun ho => absurd ((horphan i ho).symm.trans ((hqueue l i).1 hi).1) (by decide)

variable {o : TxOutcome}

theorem stopAndFlush_slot (ho : Stops o) (h : SlotLaw s) (i : SlotId) :
    (stopAndFlush l o e s).slot i = if i ∈ laneMembers s l then (s.slot i).stopped o else s.slot i := by
  rw [stopAndFlush_foldl]
  refine (foldl_decideOutcome_slot ho (laneMembers_nodup h) i).trans ?_
  rw [quieted_slot]

theorem stopAndFlush_completion (ho : Stops o) (h : SlotLaw s) :
    (stopAndFlush l o e s).completion = s.completion ++ (laneMembers s l).filter fun i => !(s.slot i).orphan := by
  rw [stopAndFlush_foldl, judgeFlow_completion, foldl_decideOutcome_completion ho (laneMembers_nodup h), quieted_completion]
  simp only [quieted_slot]

theorem stopAndFlush_counters (ho : Stops o) (h : SlotLaw s) :
    (stopAndFlush l o e s).counters = ((laneMembers s l).foldl (fun t i => countOutcome i o t) (quieted s l e)).counters := by
  rw [stopAndFlush_foldl, judgeFlow_counters, foldl_decideOutcome_counters ho (laneMembers_nodup h)]

theorem stopAndFlush_setCount (ho : Stops o) (h : SlotLaw s) (k : SetId) (c : SetCounter) :
    (stopAndFlush l o e s).setCount k c = s.setCount k c + if c = .doneFail then
      BitVec.ofNat 40 ((laneMembers s l).filter fun i => (s.slotRoute i).counterSet = some k).length else 0 := by
  calc (stopAndFlush l o e s).setCount k c
      = ((laneMembers s l).foldl (fun t i => countOutcome i o t) (quieted s l e)).setCount k c := by
        unfold State.setCount; rw [stopAndFlush_counters ho h]
    _ = _ := by rw [foldl_countOutcome_setCount _ ho.1, quieted_setCount]; simp only [quieted_slotRoute]

theorem stopAndFlush_deviceCount (ho : Stops o) (h : SlotLaw s) (c : DeviceCounter) :
    (stopAndFlush l o e s).deviceCount c = s.deviceCount c := by
  calc (stopAndFlush l o e s).deviceCount c
      = ((laneMembers s l).foldl (fun t i => countOutcome i o t) (quieted s l e)).deviceCount c := by
        unfold State.deviceCount; rw [stopAndFlush_counters ho h]
    _ = _ := by rw [foldl_countOutcome_deviceCount _ ho.1, quieted_deviceCount]

theorem stopAndFlush_queue (m : LaneId) : (stopAndFlush l o e s).queue m = if m = l then [] else s.queue m := by
  rw [stopAndFlush_eq]
  refine (State.setQueue_queue s l [] m).trans ?_
  simp only [eq_comm]

theorem stopAndFlush_lane (m : LaneId) : (stopAndFlush l o e s).lane m = if l = m then e else s.lane m := by
  rw [stopAndFlush_eq]
  exact State.setLane_lane s l e m

theorem stopAndFlush_mem : (stopAndFlush l o e s).mem = (strayIfShifting l s).mem := by
  rw [stopAndFlush_eq]

/-- A flush gives back what the freeing of its orphans does, and the Flow Controller judges what it leaves (R52, R59, R96). -/
theorem stopAndFlush_frame (ho : Stops o) (h : SlotLaw s) :
    let gone := freeSlots ((laneMembers s l).filter fun i => (s.slot i).orphan) s
    let t := stopAndFlush l o e s
    t = judgeFlow { s with
      slots := t.slots, queues := t.queues, completion := t.completion, lanes := t.lanes, counters := t.counters
      freeCells := gone.freeCells, routes := gone.routes, events := gone.events, mem := t.mem, draws := t.draws } := by
  intro gone t
  set v := (laneMembers s l).foldl (fun t i => decideOutcome i o t) (quieted s l e) with hv
  have ht : t = judgeFlow v := stopAndFlush_foldl s l o e
  obtain ⟨hc, hr, he⟩ : SameReturns v gone := by
    obtain ⟨fc, fr, fe⟩ := foldl_decideOutcome_returns (s := quieted s l e) ho (laneMembers_nodup (l := l) h) fun i hi => by
      rw [quieted_slot]; exact orphan_of_mem_queue h hi
    simp only [quieted_slot] at fc fr fe
    obtain ⟨gc, gr, ge⟩ := freeSlots_returns_congr (s := quieted s l e) (t := s) ((laneMembers s l).filter fun i => (s.slot i).orphan)
      (by rw [quieted_eq]) (by rw [quieted_eq]; exact ⟨rfl, rfl, rfl⟩) (by rw [quieted_eq])
    exact ⟨fc.trans gc, fr.trans gr, fe.trans ge⟩
  have hframe : v = { s with
      slots := v.slots, queues := v.queues, completion := v.completion, lanes := v.lanes, counters := v.counters
      freeCells := gone.freeCells, routes := gone.routes, events := gone.events, mem := v.mem, draws := v.draws } := by
    rw [← hc, ← hr, ← he, hv, foldl_decideOutcome_eq, quieted_eq]
  rw [ht]
  exact congrArg judgeFlow hframe

end
/-- Settles O43: both operations are the flush of the lane on its stopped engine; a lane that is OFF has nothing to flush. -/
theorem laneFlush : Obligations.LaneFlush := by
  intro s q rest lease n watch gap l hm _ h hp ht hh hl hw members gone flushed
  have hflushed : ∀ {o : TxOutcome} (e : LaneEngine), Stops o →
      flushed o (withAgent (stopAndFlush l o e s) (renewed s q rest lease (laneReply (stopAndFlush l o e s) l))) := by
    intro o e ho
    have hslot := stopAndFlush_slot (l := l) (e := e) ho h
    have hcompletion := stopAndFlush_completion (l := l) (e := e) ho h
    have hqueue := stopAndFlush_queue (s := s) (l := l) (e := e) (o := o)
    have hothers := stopAndFlush_lane (s := s) (l := l) (e := e) (o := o)
    have hcount := stopAndFlush_setCount (l := l) (e := e) ho h
    have hdevice := stopAndFlush_deviceCount (l := l) (e := e) ho h
    have hmem := stopAndFlush_mem (s := s) (l := l) (e := e) (o := o)
    have hframe := stopAndFlush_frame (l := l) (e := e) ho h
    dsimp only at hframe
    generalize stopAndFlush l o e s = u at *
    refine ⟨fun i hi => ?_, fun i hi => ?_, hcompletion, hqueue, fun m hne => ?_, fun k => ?_, fun k c hc => ?_, hdevice, fun a ha => ?_, ?_⟩
    · exact (hslot i).trans (if_pos hi)
    · exact (hslot i).trans (if_neg hi)
    · exact (hothers m).trans (if_neg (Ne.symm hne))
    · exact (hcount k .doneFail).trans (by rw [if_pos rfl]; rfl)
    · exact (hcount k c).trans (by rw [if_neg hc]; exact BitVec.add_zero _)
    · rw [withAgent_mem, hmem]
      exact strayIfShifting_readByte hm hp l ha
    · exact congrArg (withAgent · (renewed s q rest lease (laneReply u l))) hframe
  have hself : ∀ (o : TxOutcome) (e : LaneEngine), (stopAndFlush l o e s).lane l = e := fun o e => (stopAndFlush_lane l).trans (if_pos rfl)
  refine ⟨fun hc hon => ?reset, fun hc hoff' => ?resetOff, fun hc hon => ?disable, fun hc hdis => ?settings⟩
  case reset =>
    have hreset : resetLaneEngine l s = stopAndFlush l .laneReset (s.lane l).quit.enterIdle s := if_neg hon
    refine ⟨_, hreset ▸ exec_resetLane_done ht hh hc hl, hflushed _ ⟨by decide, by decide⟩, ?_⟩
    exact hself _ _
  case resetOff =>
    have hreset : resetLaneEngine l s = s := if_pos hoff'
    have hexec := exec_resetLane_done ht hh hc hl
    rw [hreset] at hexec
    exact hexec
  case disable =>
    have hdisable : disableLane l (decide (watch = 1)) gap.toNat s = stopAndFlush l .laneOff { (s.lane l).quit with
        enabled := false, claimWatch := decide (watch = 1), gap := gap.toNat, state := .off, clockLevel := .low } s := if_pos hon
    refine ⟨_, hdisable ▸ exec_setLane_disable ht hh hc hl hw, hflushed _ ⟨by decide, by decide⟩, ?_⟩
    exact hself _ _
  case settings =>
    have hdisable : disableLane l (decide (watch = 1)) gap.toNat s =
        s.setLane l { s.lane l with claimWatch := decide (watch = 1), gap := gap.toNat } := if_neg (by simp [hdis])
    exact ⟨_, hdisable ▸ exec_setLane_disable ht hh hc hl hw, rfl, rfl⟩

end Sys2Proof.Machine
